-- ==== Sys2Proof/Word.lean ====
section
/-! DEFINITION. The word types of the core: bytes on the wire, the host's 32-bit words, lengths and one-bit registers. -/

namespace Sys2Proof

/-- An unsigned 8-bit value (R14). -/
abbrev Byte := BitVec 8

/-- A host command word or response word (R103, R105). -/
abbrev Word := BitVec 32

/-- A 16-bit length: LEN and `wlen` (R46, R103). -/
abbrev Half := BitVec 16

/-- A one-bit value: `ns`, `nr` and the sequence bit of a control byte (R37, R38, R94). -/
abbrev Bit := BitVec 1

/-- `¬b` for a one-bit value, which is `1 − b` and `b ⊕ 1` (R14, R156). -/
abbrev Bit.flip (b : Bit) : Bit := b ^^^ 1#1

/-- A flag as one bit, for the status port (R53). -/
abbrev bitOf (b : Bool) : Bit := BitVec.ofBool b

end Sys2Proof
end

