-- ==== Sys2Proof/Machine/Checksum.lean ====
section
/-! DEFINITION. The checksum unit: bytewise XOR (41_checksum.md R150 to R152). -/

namespace Sys2Proof.Machine

/-- `HCS(a, c)`, the header checksum BCC1 (R150). -/
def hcs (a c : Byte) : Byte := a ^^^ c

/-- `PCS(p)`, the payload checksum BCC2: XORFOLD(p) (R151, R15). -/
def pcs (p : List Byte) : Byte := p.foldl (fun acc b => acc ^^^ b) 0x00#8

/-- `isValidHeader(a, c, bcc)` (R152). -/
def isValidHeader (a c bcc : Byte) : Bool := bcc = hcs a c

end Sys2Proof.Machine
end

