-- ==== Sys2Proof/Config.lean ====
section
/-! DEFINITION. What an implementation fixes before the rules hold (R13, R343), and the one free value. -/

namespace Sys2Proof

/-- The implementation parameters of R13. A model takes each one as an argument; they stand together in one record
that State carries and no step writes (R343, log 6). -/
structure Params where
  /-- `MAX_PAYLOAD`: most payload bytes in one information frame. -/
  maxPayload : Nat
  /-- `RAW_CAP`: capacity of the parser's raw payload buffer. -/
  rawCap : Nat
  /-- `TXBUF_CAP`: capacity of the transmit frame buffer. -/
  txbufCap : Nat
  /-- `UNIT_CAP`: output capacity of STUFF and DESTUFF. The spec gives it no constraint. -/
  unitCap : Nat
  /-- `ESC_FLAG_MARK`: the byte after the escape byte that stands for the delimiter. -/
  escFlagMark : Byte
  /-- `ESC_ESC_MARK`: the byte after the escape byte that stands for the escape byte. -/
  escEscMark : Byte
deriving DecidableEq, Repr

/-- `DST_CAP = MAX_PAYLOAD + 1`, the output capacity of the receiver's destuff step (R13). -/
def Params.dstCap (p : Params) : Nat := p.maxPayload + 1

/-- The constraints R132 puts on the two markers. -/
abbrev Params.markersOk (p : Params) : Prop :=
  p.escFlagMark ≠ 0x7E#8 ∧ p.escEscMark ≠ 0x7E#8 ∧ p.escFlagMark ≠ p.escEscMark

/-- The constraints R13 and R132 put on the parameters. -/
abbrev Params.ok (p : Params) : Prop :=
  1 ≤ p.maxPayload ∧ p.maxPayload ≤ 65535 ∧
  2 * (p.maxPayload + 1) ≤ p.rawCap ∧
  2 * (p.maxPayload + 1) + 5 ≤ p.txbufCap ∧
  p.markersOk

/-- The parameters of the reset state. DESIGN CHOICE (log 6): the capacities are those the test vectors use
(95, conventions; 2.3), since R13 leaves them OPEN. The markers are R13's defaults, which the spec itself takes
from general knowledge (PRESUMED). -/
def Params.default : Params :=
  { maxPayload := 16, rawCap := 34, txbufCap := 39, unitCap := 16, escFlagMark := 0x5E#8, escEscMark := 0x5D#8 }

/-- FREE VALUE (log 15): what the 16-bit LEN field of a response reads when the data is longer than 65535 bytes.
R105 gives LEN 16 bits, R13 gives UNIT_CAP no upper bound, and no rule says what LEN holds then. Applied to a
counter of State, so that each such response has a value of its own. -/
opaque Config.freeLen : Nat → Half

end Sys2Proof
end

