-- ==== Sys2Proof/Syntax.lean ====
section
/-! DEFINITION. The syntax: one constructor for every row of the opcode table (R93, R104). -/

namespace Sys2Proof

/-- The role of a connection (R33): 0 is Transmitter, 1 is Receiver. -/
inductive Role where
  | transmitter
  | receiver
deriving DecidableEq, Repr

/-- The nine control codes a frame may carry (R93) and the nine host commands (R104). A control code has no operand
of its own: its sequence bit is part of the code (R94). LEN and K are counts, so they are naturals that
`WellFormed` bounds by their fields' widths; addresses, control bytes and checksums are bytes. -/
inductive Instr where
  /-- I0: information frame, sequence 0. -/
  | ctlI0
  /-- I1: information frame, sequence 1. -/
  | ctlI1
  /-- SET: connection establishment. -/
  | ctlSet
  /-- UA: unnumbered acknowledgment. -/
  | ctlUa
  /-- DISC: disconnect. -/
  | ctlDisc
  /-- RR0: receiver ready, expecting 0. -/
  | ctlRr0
  /-- RR1: receiver ready, expecting 1. -/
  | ctlRr1
  /-- REJ0: reject, sequence 0. -/
  | ctlRej0
  /-- REJ1: reject, sequence 1. -/
  | ctlRej1
  /-- OPEN: ROLE and K; its side operands come with the command (R210). -/
  | hostOpen (role : Role) (k : Nat)
  /-- WRITE: LEN payload bytes (R241). -/
  | hostWrite (len : Nat)
  /-- READ (R260). -/
  | hostRead
  /-- CLOSE (R220, R223, R224, R229). -/
  | hostClose
  /-- STUFF: LEN data bytes (R136). -/
  | unitStuff (len : Nat)
  /-- DESTUFF: LEN data bytes (R137). -/
  | unitDestuff (len : Nat)
  /-- HCS: address and control operands (R153). -/
  | unitHcs (a c : Byte)
  /-- PCS: LEN data bytes (R154). -/
  | unitPcs (len : Nat)
  /-- HDRCHK: address, control and checksum operands (R155). -/
  | unitHdrchk (a c bcc : Byte)
deriving DecidableEq, Repr

end Sys2Proof
end

