-- ==== Sys2Proof/WellFormed.lean ====
section
/-! DEFINITION. Which terms of the syntax an encoding exists for: K fits 8 bits (R34, R103) and LEN fits 16 (R103). -/

namespace Sys2Proof

/-- K is an 8-bit field (R103). K = 0 with role Transmitter is well formed: it is encodable, and it is the host
violation R312 d, not an illegal word. -/
abbrev kFits (k : Nat) : Bool := decide (k < 256)

/-- LEN is a 16-bit field (R103). A LEN above MAX_PAYLOAD is "not a decoding error" (R106). -/
abbrev lenFits (n : Nat) : Bool := decide (n < 65536)

/-- The check on a term, one line per constructor. -/
def Instr.wellFormed : Instr → Bool
  | .ctlI0 => true
  | .ctlI1 => true
  | .ctlSet => true
  | .ctlUa => true
  | .ctlDisc => true
  | .ctlRr0 => true
  | .ctlRr1 => true
  | .ctlRej0 => true
  | .ctlRej1 => true
  | .hostOpen _ k => kFits k
  | .hostWrite len => lenFits len
  | .hostRead => true
  | .hostClose => true
  | .unitStuff len => lenFits len
  | .unitDestuff len => lenFits len
  | .unitHcs _ _ => true
  | .unitPcs len => lenFits len
  | .unitHdrchk _ _ _ => true

/-- A term that some word encodes. -/
abbrev WellFormed (i : Instr) : Prop := i.wellFormed = true

end Sys2Proof
end

