-- ==== Sys2Proof/Decode.lean ====
section
/-! DEFINITION. Decoding and encoding: the wire's reserved bytes and control codes (R90 to R95), the command word's
fields (R103, R104, R106), the decoder, which is total and rejects by name, and the encoder. -/

namespace Sys2Proof

/-! ### Reserved bytes and addresses -/

/-- The delimiter (flag), 0x7E (R90). -/
def delim : Byte := 0x7E#8
/-- The escape byte, 0x7D (R90). -/
def escByte : Byte := 0x7D#8
/-- `A_T`: transmitter commands and receiver replies (R91). -/
def addrT : Byte := 0x03#8
/-- `A_R`: receiver commands and transmitter replies (R91). -/
def addrR : Byte := 0x01#8

/-! ### Control codes (R93) -/

def codeI0 : Byte := 0x00#8
def codeI1 : Byte := 0x40#8
def codeSet : Byte := 0x03#8
def codeUa : Byte := 0x07#8
def codeDisc : Byte := 0x0B#8
def codeRr0 : Byte := 0x05#8
def codeRr1 : Byte := 0x85#8
def codeRej0 : Byte := 0x01#8
def codeRej1 : Byte := 0x81#8

/-- `S_CTRL`: the seven supervision controls (R95). -/
def sCtrl : List Byte := [codeSet, codeUa, codeDisc, codeRr0, codeRr1, codeRej0, codeRej1]
/-- `I_CTRL`: the two information controls (R95). -/
def iCtrl : List Byte := [codeI0, codeI1]

/-! ### Fields of the command word (R103, R106) -/

/-- OP = w[3:0]. -/
def fieldOp (w : Word) : BitVec 4 := w.extractLsb' 0 4
/-- ROLE = w[4]. -/
def fieldRole (w : Word) : Bit := w.extractLsb' 4 1
/-- w[7:5], reserved, must be 0. -/
def fieldRsv (w : Word) : BitVec 3 := w.extractLsb' 5 3
/-- w[15:8]: K, or UA_ADDR. -/
def fieldB1 (w : Word) : Byte := w.extractLsb' 8 8
/-- w[23:16]: UC. -/
def fieldB2 (w : Word) : Byte := w.extractLsb' 16 8
/-- w[31:24]: UB. -/
def fieldB3 (w : Word) : Byte := w.extractLsb' 24 8
/-- w[31:16]: LEN. -/
def fieldLen (w : Word) : Half := w.extractLsb' 16 16

/-- The role bit's encoding (R33). -/
def Role.code : Role → Bit
  | .transmitter => 0#1
  | .receiver => 1#1

/-- The role a role bit names (R33). -/
def roleOf (b : Bit) : Role := if b = 0#1 then .transmitter else .receiver

/-! ### Decoding -/

/-- Why a word or a control byte is no instruction. -/
inductive DecodeError where
  /-- A control byte outside the nine of R93; the parser drops the frame (R100). -/
  | unknownControl (b : Byte)
  /-- A reserved OP: 0x0, 0x5 to 0x7, 0xD to 0xF (R104); a host violation (R312 a). -/
  | reservedOp (op : BitVec 4)
  /-- A nonzero bit in a field the OP does not use (R103); a host violation (R312 b). -/
  | unusedField (w : Word)
deriving DecidableEq, Repr

/-- The control byte's instruction: the nine values of R93. -/
def decodeCtrl (b : Byte) : Except DecodeError Instr :=
  if b = codeI0 then .ok .ctlI0
  else if b = codeI1 then .ok .ctlI1
  else if b = codeSet then .ok .ctlSet
  else if b = codeUa then .ok .ctlUa
  else if b = codeDisc then .ok .ctlDisc
  else if b = codeRr0 then .ok .ctlRr0
  else if b = codeRr1 then .ok .ctlRr1
  else if b = codeRej0 then .ok .ctlRej0
  else if b = codeRej1 then .ok .ctlRej1
  else .error (.unknownControl b)

/-- `i` where the fields the OP does not use are all 0, and the rejection R103 asks for where one is not. -/
def whenUnusedZero (unusedZero : Bool) (w : Word) (i : Instr) : Except DecodeError Instr :=
  if unusedZero then .ok i else .error (.unusedField w)

/-- The LEN commands use OP and LEN only (R103). -/
def onlyLen (w : Word) : Bool := fieldRole w = 0#1 && fieldRsv w = 0#3 && fieldB1 w = 0#8

/-- The command word's instruction: OP selects it and its operands are zero-extended fields (R104, R106). -/
def decodeCmd (w : Word) : Except DecodeError Instr :=
  if fieldOp w = 0x1#4 then
    whenUnusedZero (fieldRsv w = 0#3 && fieldLen w = 0#16) w (.hostOpen (roleOf (fieldRole w)) (fieldB1 w).toNat)
  else if fieldOp w = 0x2#4 then whenUnusedZero (onlyLen w) w (.hostWrite (fieldLen w).toNat)
  else if fieldOp w = 0x3#4 then whenUnusedZero (onlyLen w && fieldLen w = 0#16) w .hostRead
  else if fieldOp w = 0x4#4 then whenUnusedZero (onlyLen w && fieldLen w = 0#16) w .hostClose
  else if fieldOp w = 0x8#4 then whenUnusedZero (onlyLen w) w (.unitStuff (fieldLen w).toNat)
  else if fieldOp w = 0x9#4 then whenUnusedZero (onlyLen w) w (.unitDestuff (fieldLen w).toNat)
  else if fieldOp w = 0xA#4 then
    whenUnusedZero (fieldRole w = 0#1 && fieldRsv w = 0#3 && fieldB3 w = 0#8) w (.unitHcs (fieldB1 w) (fieldB2 w))
  else if fieldOp w = 0xB#4 then whenUnusedZero (onlyLen w) w (.unitPcs (fieldLen w).toNat)
  else if fieldOp w = 0xC#4 then
    whenUnusedZero (fieldRole w = 0#1 && fieldRsv w = 0#3) w (.unitHdrchk (fieldB1 w) (fieldB2 w) (fieldB3 w))
  else .error (.reservedOp (fieldOp w))

/-- The two encodings the core decodes (30, opening): a control byte on the wire, a command word from the host. -/
inductive Code where
  | ctrl (b : Byte)
  | cmd (w : Word)
deriving DecidableEq, Repr

/-- Decoding of either encoding. -/
def decode : Code → Except DecodeError Instr
  | .ctrl b => decodeCtrl b
  | .cmd w => decodeCmd w

/-! ### Encoding -/

/-- A command word from its fields, most significant first: w[31:16], w[15:8], w[7:5] = 0, ROLE, OP (R103). -/
def cmdWord (hi : Half) (b1 : Byte) (role : Bit) (op : BitVec 4) : Word := hi ++ b1 ++ 0#3 ++ role ++ op

/-- The word of a command whose only operand is LEN. -/
def lenWord (len : Nat) (op : BitVec 4) : Word := cmdWord (BitVec.ofNat 16 len) 0#8 0#1 op

/-- The encoding of an instruction (R93, R103, R104, R108). -/
def encode : Instr → Code
  | .ctlI0 => .ctrl codeI0
  | .ctlI1 => .ctrl codeI1
  | .ctlSet => .ctrl codeSet
  | .ctlUa => .ctrl codeUa
  | .ctlDisc => .ctrl codeDisc
  | .ctlRr0 => .ctrl codeRr0
  | .ctlRr1 => .ctrl codeRr1
  | .ctlRej0 => .ctrl codeRej0
  | .ctlRej1 => .ctrl codeRej1
  | .hostOpen role k => .cmd (cmdWord 0#16 (BitVec.ofNat 8 k) role.code 0x1#4)
  | .hostWrite len => .cmd (lenWord len 0x2#4)
  | .hostRead => .cmd (lenWord 0 0x3#4)
  | .hostClose => .cmd (lenWord 0 0x4#4)
  | .unitStuff len => .cmd (lenWord len 0x8#4)
  | .unitDestuff len => .cmd (lenWord len 0x9#4)
  | .unitHcs a c => .cmd (cmdWord (0#8 ++ c) a 0#1 0xA#4)
  | .unitPcs len => .cmd (lenWord len 0xB#4)
  | .unitHdrchk a c bcc => .cmd (cmdWord (bcc ++ c) a 0#1 0xC#4)

/-- The number of data bytes a command word announces: its LEN for the four commands that have one. A command
without a LEN operand has no data operand (log 14). -/
def Instr.dataLen : Instr → Nat
  | .hostWrite len => len
  | .unitStuff len => len
  | .unitDestuff len => len
  | .unitPcs len => len
  | .ctlI0 => 0
  | .ctlI1 => 0
  | .ctlSet => 0
  | .ctlUa => 0
  | .ctlDisc => 0
  | .ctlRr0 => 0
  | .ctlRr1 => 0
  | .ctlRej0 => 0
  | .ctlRej1 => 0
  | .hostOpen _ _ => 0
  | .hostRead => 0
  | .hostClose => 0
  | .unitHcs _ _ => 0
  | .unitHdrchk _ _ _ => 0

/-- What the decoder reads from an instruction of the opcode table given as a number: the control rows have 8 bits,
the command rows 32, and no other width is an encoding of this core. The spec gives the command word no byte
order; it is one value (log 16). -/
def decodeTableWord (nbits w : Nat) : Option Instr :=
  if nbits = 8 ∧ w < 256 then (decodeCtrl (BitVec.ofNat 8 w)).toOption
  else if nbits = 32 ∧ w < 4294967296 then (decodeCmd (BitVec.ofNat 32 w)).toOption
  else none

end Sys2Proof
end

