-- ==== Sys2Proof/Machine/Codec.lean ====
section
/-! DEFINITION. The framing codec: byte stuffing and destuffing with a capacity (40_codec.md R130, R131). -/

namespace Sys2Proof.Machine

/-- The codec's errors and the index each is raised with (R300). The index is "for the reader only". -/
inductive CodecError where
  /-- `MalformedEscape(i)`: the index of the escape byte. -/
  | malformedEscape (i : Nat)
  /-- `BufferExhausted(i)`: the index reached. -/
  | bufferExhausted (i : Nat)
deriving DecidableEq, Repr

/-- What one byte is stuffed into: two bytes for the delimiter and for the escape byte, itself otherwise (R130). -/
def stuffPiece (par : Params) (b : Byte) : List Byte :=
  if b = delim then [escByte, par.escFlagMark]
  else if b = escByte then [escByte, par.escEscMark]
  else [b]

/-- `out <- piece ++ out` for the rest of a scan: the rest's error where it has one. -/
def prepend (piece : List Byte) : Except CodecError (List Byte) → Except CodecError (List Byte)
  | .ok out => .ok (piece ++ out)
  | .error e => .error e

/-- R130's scan from index `i`, with `n` bytes already in the output. -/
def stuffFrom (par : Params) (cap : Nat) : Nat → Nat → List Byte → Except CodecError (List Byte)
  | _, _, [] => .ok []
  | i, n, b :: x =>
    if cap < n + (stuffPiece par b).length then .error (.bufferExhausted i)
    else prepend (stuffPiece par b) (stuffFrom par cap (i + 1) (n + (stuffPiece par b).length) x)

/-- `stuff(x, cap)` (R130). -/
def stuff (par : Params) (x : List Byte) (cap : Nat) : Except CodecError (List Byte) := stuffFrom par cap 0 0 x

/-- What the byte after an escape byte stands for (R131), or nothing where it is no marker. -/
def unescape (par : Params) (m : Byte) : Option Byte :=
  if m = par.escFlagMark then some delim
  else if m = par.escEscMark then some escByte
  else none

/-- R131's scan from index `i`, with `n` bytes already in the output. The escape check of a pair stands before the
capacity check of the byte it would produce; a lone 0x7E is copied (R139). -/
def destuffFrom (par : Params) (cap : Nat) : Nat → Nat → List Byte → Except CodecError (List Byte)
  | _, _, [] => .ok []
  | i, n, b :: y =>
    if b = escByte then
      match y with
      | [] => .error (.malformedEscape i)
      | m :: y' =>
        match unescape par m with
        | none => .error (.malformedEscape i)
        | some d =>
          if cap < n + 1 then .error (.bufferExhausted (i + 2))
          else prepend [d] (destuffFrom par cap (i + 2) (n + 1) y')
    else if cap < n + 1 then .error (.bufferExhausted (i + 1))
    else prepend [b] (destuffFrom par cap (i + 1) (n + 1) y)

/-- `destuff(y, cap)` (R131). -/
def destuff (par : Params) (y : List Byte) (cap : Nat) : Except CodecError (List Byte) := destuffFrom par cap 0 0 y

end Sys2Proof.Machine
end

