-- ==== Sys2Proof/Machine/State.lean ====
section
/-! DEFINITION. The machine's state as plain data, its stops, and the state after power-on reset (10_state.md, 20 R71). -/

namespace Sys2Proof.Machine

/-- The control FSM's phases (R30). The 4-bit codes 10 to 15 are "never reached by any rule" and have no name here. -/
inductive Phase where
  | closed
  | tSetup
  | rSetup
  | opened
  | tWaitAck
  | rRead
  | tTeardown
  | rTeardownDisc
  | rTeardownUa
  | broken
deriving DecidableEq, Repr

/-- The frame parser's positions (R42, C1): each name is the slot the parser is about to fill. `done` is transient,
reached and left within one step. -/
inductive Pos where
  | idle
  | sawAddress
  | sawControl
  | sawChecksum
  | inPayload
  | done
deriving DecidableEq, Repr

/-- A byte buffer (R71) as (index, byte) cells: indices strictly rising, and no cell whose byte is 0x00, which is
what an index without a cell reads as (log 8). -/
abbrev Memory := List Host.Cell

/-- The parser's registers (R42, R43, R44). -/
structure Parser where
  /-- `ps`, the position. -/
  ps : Pos
  /-- `pa`, the captured address byte. -/
  pa : Byte
  /-- `pc`, the captured control byte. -/
  pc : Byte
  /-- `pbcc`, the captured header checksum byte. -/
  pbcc : Byte
  /-- `rawbuf`, the raw payload bytes, still stuffed. -/
  rawbuf : Memory
  /-- `rawlen`, how many raw bytes are buffered. -/
  rawlen : Nat
deriving DecidableEq, Repr

/-- A host command as the host presents it: the word, the bytes on the data side (R103), OPEN's side operands (R210),
and the answer the transport will give to TransportOpen, which R323 makes "an input of the step that accepts
OPEN" (log 5). -/
structure Command where
  word : Word
  data : List Byte
  timeout : Nat
  baud : Nat
  port : Nat
  transportOk : Bool
deriving DecidableEq, Repr

/-- What the environment can offer the core next (R314), and the transport's own move: bytes arriving in its queue
(R54, log 3). -/
inductive Event where
  /-- `Cmd(w, data)`: the host issues a command. -/
  | cmd (c : Command)
  /-- `RxByte`: the transport delivers the next byte of its queue. -/
  | rxByte
  /-- `Expiry`: the timeout elapses. -/
  | expiry
  /-- The channel brings bytes to the transport's queue. No rule of the core runs. -/
  | arrive (bs : List Byte)
deriving DecidableEq, Repr

/-- An output event (R10): a frame written to the transport, a response to the host, a transport open or close. -/
inductive Output where
  /-- `TxSend(frame)` (R76). -/
  | frame (bytes : List Byte)
  /-- `Respond`: the response word and its data bytes (R105, R301). -/
  | response (word : Word) (data : List Byte)
  /-- `TransportOpen(port, baud)` and the answer it got (R323). -/
  | transportOpen (port baud : Nat) (ok : Bool)
  /-- `TransportClose()` (R323). -/
  | transportClose
deriving DecidableEq, Repr

/-- Everything the spec gives the core (R30 to R49, R71), the transport's queue the rules read (R54), and the model's
own fields `par`, `port`, `events`, `outputs` and `freeCount`. -/
structure State where
  /-- The implementation parameters (R13); no step writes them (R343). -/
  par : Params
  /-- R30. -/
  phase : Phase
  /-- R33. -/
  role : Role
  /-- `CFG_MAXRETRY`, R34. -/
  cfgMaxRetry : Byte
  /-- `CFG_TIMEOUT`, R35; opaque, of OPEN width (log 9). -/
  cfgTimeout : Nat
  /-- `CFG_BAUD`, R35; opaque, of OPEN width (log 9). -/
  cfgBaud : Nat
  /-- `CFG_PORT`, R35; opaque, of OPEN width (log 9). -/
  cfgPort : Nat
  /-- R37. -/
  ns : Bit
  /-- R38. -/
  nr : Bit
  /-- R40. -/
  retry : Byte
  /-- R41. -/
  timerArmed : Bool
  /-- R42 to R44. -/
  parser : Parser
  /-- R71. -/
  dstbuf : Memory
  /-- R45. -/
  txbuf : Memory
  /-- R45. -/
  txlen : Nat
  /-- R46. -/
  wlen : Half
  /-- R47. -/
  discSeen : Bool
  /-- R48. -/
  fault : Bool
  /-- R49. -/
  topen : Bool
  /-- R71. -/
  unitbuf : Memory
  /-- The command being taken (log 5). -/
  port : Command
  /-- The transport's received bytes the core has not read, oldest first (R54). -/
  rxQueue : List Byte
  /-- The events the environment will offer, in order (R314, R316, R318; log 1). -/
  events : List Event
  /-- The output events so far, oldest first (R10, R17; log 4). -/
  outputs : List Output
  /-- How many free values have been taken (log 15). -/
  freeCount : Nat
deriving DecidableEq, Repr

/-- Why a step stops. Every one is met only in states no run reaches, because the spec gives no rule there (log 11).
Each is safe: the model stops where a machine in such a state would do something the spec does not say. -/
inductive Fault where
  /-- Raised by a received byte when `ps` is Done between steps, which R42 says is "never held between steps".
  Safe. -/
  | parserHeldDone
  /-- Raised by a received byte in InPayload when `pc` holds none of the nine control codes; R43 says a capture register
  is read only after the current frame wrote it. Safe. -/
  | captureInvalid
  /-- Raised by a timer expiry in a phase other than T_SETUP and T_WAIT_ACK, where R41 and R318 say no expiry is ever
  enabled. Safe. -/
  | expiryOutsideWait
  /-- Raised by a timer expiry when retry + 1 exceeds k, which R40 says never happens. Safe. -/
  | retryBeyondLimit
deriving DecidableEq, Repr

/-- Why an instruction has no meaning. -/
inductive Refusal where
  /-- Raised by exec's arm of an instruction that is not modelled yet. No arm raises it now. Safe. -/
  | notModelled (mnemonic : String)
deriving DecidableEq, Repr

/-- The outcome of one step of this machine. -/
abbrev Result := Host.Outcome State Fault Refusal

/-- An all-zero command, for the reset state's `port` (log 5). -/
def Command.none : Command :=
  { word := 0#32, data := [], timeout := 0, baud := 0, port := 0, transportOk := false }

/-- The state after power-on reset of a core with parameters `par`: R56 for phase, ps, timer_armed, disc_seen, fault,
topen, rawlen and txlen; DESIGN CHOICE zero for every register R56 leaves unspecified (log 7) and for the buffers'
contents (log 8). -/
def State.resetWith (par : Params) : State :=
  { par := par
    phase := .closed
    role := .transmitter
    cfgMaxRetry := 0#8
    cfgTimeout := 0
    cfgBaud := 0
    cfgPort := 0
    ns := 0#1
    nr := 0#1
    retry := 0#8
    timerArmed := false
    parser := { ps := .idle, pa := 0#8, pc := 0#8, pbcc := 0#8, rawbuf := [], rawlen := 0 }
    dstbuf := []
    txbuf := []
    txlen := 0
    wlen := 0#16
    discSeen := false
    fault := false
    topen := false
    unitbuf := []
    port := Command.none
    rxQueue := []
    events := []
    outputs := []
    freeCount := 0 }

/-- The machine right after reset, with the parameters of log 6 (R56, R340). -/
def State.reset : State := State.resetWith Params.default

end Sys2Proof.Machine
end

