-- ==== Sys2Proof/Machine/Operands.lean ====
section
/-! DEFINITION. Operand forms: the sequence bit of a control byte (R94), the accepted control and address sets (R181,
R182), the phases' classes (R31), and the data operand of a command (R106, R312 h). -/

namespace Sys2Proof.Machine

/-- `ctrlI(s) = s[0] << 6` (R94). -/
def ctrlI (s : Bit) : Byte := s.setWidth 8 <<< 6
/-- `ctrlRR(s) = 0x05 | (s[0] << 7)` (R94). -/
def ctrlRR (s : Bit) : Byte := 0x05#8 ||| (s.setWidth 8 <<< 7)
/-- `ctrlREJ(s) = 0x01 | (s[0] << 7)` (R94). -/
def ctrlREJ (s : Bit) : Byte := 0x01#8 ||| (s.setWidth 8 <<< 7)
/-- `seqI(c) = c[6]` (R94). -/
def seqI (c : Byte) : Bit := c.extractLsb' 6 1
/-- `seqS(c) = c[7]` (R94). -/
def seqS (c : Byte) : Bit := c.extractLsb' 7 1

/-- The busy phases, in which a host command is outstanding and bytes are consumed (R31, R32). -/
def Phase.busy : Phase → Bool
  | .tSetup => true
  | .rSetup => true
  | .tWaitAck => true
  | .rRead => true
  | .tTeardown => true
  | .rTeardownDisc => true
  | .rTeardownUa => true
  | .closed => false
  | .opened => false
  | .broken => false

/-- `ADDRSET` (R182). -/
def addrSet : List Byte := [addrR, addrT]

/-- `CTRLSET(phase)` (R181): the I class with DISC in R_READ, the S class in every other busy phase. In an idle phase no
byte is consumed and the set is not used (R32); the S class stands there (log 24). -/
def ctrlSet : Phase → List Byte
  | .rRead => iCtrl ++ [codeDisc]
  | .tSetup => sCtrl
  | .rSetup => sCtrl
  | .tWaitAck => sCtrl
  | .tTeardown => sCtrl
  | .rTeardownDisc => sCtrl
  | .rTeardownUa => sCtrl
  | .closed => sCtrl
  | .opened => sCtrl
  | .broken => sCtrl

/-- A list has exactly `n` entries: R312 h's test of a data operand against LEN. -/
def hasLength : List Byte → Nat → Bool
  | [], 0 => true
  | _ :: bs, n + 1 => hasLength bs n
  | _, _ => false

/-- The data operand the host presents has the `n` bytes the command announces (R106, R312 h). -/
def State.dataFits (s : State) (n : Nat) : Bool := hasLength s.port.data n

end Sys2Proof.Machine
end

