-- ==== Sys2Proof/Machine/Framer.lean ====
section
/-! DEFINITION. The framer: the byte sequences of the two frame kinds (42_framer.md R160, R161). -/

namespace Sys2Proof.Machine

/-- `BuildS(a, c)` (R160). -/
def buildS (a c : Byte) : List Byte := [delim, a, c, hcs a c, delim]

/-- The payload region before stuffing: "checksum appended before stuffing" (R161). -/
def infoBody (p : List Byte) : List Byte := p ++ [pcs p]

/-- The bytes of an information frame around its stuffed region `d` (R97). -/
def infoFrame (s : Bit) (d : List Byte) : List Byte :=
  [delim, addrT, ctrlI s, hcs addrT (ctrlI s)] ++ d ++ [delim]

/-- `BuildI(s, p)` (R161): the error is stuff's, which R161 shows cannot occur when len(p) ≤ MAX_PAYLOAD and the
parameters keep R13. -/
def buildI (par : Params) (s : Bit) (p : List Byte) : Except CodecError (List Byte) :=
  match stuff par (infoBody p) (par.txbufCap - 5) with
  | .ok d => .ok (infoFrame s d)
  | .error e => .error e

/-- SET@03 (R107, R162). -/
def setFrame : List Byte := buildS addrT codeSet
/-- UA@03 (R107, R162). -/
def uaFrameT : List Byte := buildS addrT codeUa
/-- UA@01 (R107, R162). -/
def uaFrameR : List Byte := buildS addrR codeUa
/-- DISC@03 (R107, R162). -/
def discFrameT : List Byte := buildS addrT codeDisc
/-- DISC@01 (R107, R162). -/
def discFrameR : List Byte := buildS addrR codeDisc
/-- RR(n) (R107, R162). -/
def rrFrame (n : Bit) : List Byte := buildS addrT (ctrlRR n)
/-- REJ(n) (R107, R162). -/
def rejFrame (n : Bit) : List Byte := buildS addrT (ctrlREJ n)

end Sys2Proof.Machine
end

