-- ==== Sys2Proof/Machine/Ops.lean ====
section
/-! DEFINITION. The named operations the rules are written in: buffer access (R72), output events (R76, R301, R323), the
timer (R318), how an error or a success ends a command (R317, R301), and the host violation (R313). -/

namespace Sys2Proof.Machine

/-! ### Buffers -/

/-- The canonical form of a buffer's cells: indices strictly rising, and no cell that holds 0x00, which is what an index
without a cell reads as (log 8). -/
abbrev Memory.wf (m : Memory) : Prop := m.Pairwise (fun c d => c.1 < d.1) ∧ ∀ c ∈ m, c.2 ≠ 0x00#8

/-- Every cell lies below the buffer's capacity (R72: "no access is out of range"). -/
abbrev Memory.within (m : Memory) (cap : Nat) : Prop := ∀ c ∈ m, c.1 < cap

/-- `MemRead(buf, i)` (R72). -/
def Memory.read : Memory → Nat → Byte
  | [], _ => 0x00#8
  | (k, v) :: m, i => if i = k then v else Memory.read m i

/-- `MemWrite(buf, i, v)` (R72), keeping the canonical form: writing 0x00 removes the cell. -/
def Memory.write : Memory → Nat → Byte → Memory
  | [], i, v => if v = 0x00#8 then [] else [(i, v)]
  | (k, w) :: m, i, v =>
    if i < k then (if v = 0x00#8 then (k, w) :: m else (i, v) :: (k, w) :: m)
    else if i = k then (if v = 0x00#8 then m else (i, v) :: m)
    else (k, w) :: Memory.write m i v

/-- `for j in 0 .. len(bs)-1: MemWrite(buf, i + j, bs[j])`. -/
def Memory.writeAll : Memory → Nat → List Byte → Memory
  | m, _, [] => m
  | m, i, b :: bs => Memory.writeAll (Memory.write m i b) (i + 1) bs

/-- `buf[0..n)` (R15). -/
def Memory.slice (m : Memory) (n : Nat) : List Byte := (List.range n).map (fun i => Memory.read m i)

/-- `rawbuf[0..rawlen)`, the raw region of the frame being parsed (R44, R197). -/
def Parser.raw (p : Parser) : List Byte := Memory.slice p.rawbuf p.rawlen

/-- `txbuf[0..txlen)`, the frame a retransmission sends (R45, R245, R246). -/
def State.txFrame (s : State) : List Byte := Memory.slice s.txbuf s.txlen

/-! ### Output events -/

/-- One more output event, after those so far (R17). -/
def State.emit (s : State) (o : Output) : State := { s with outputs := s.outputs ++ [o] }

/-- `TxSend(frame)` (R76). The transport's result is ignored (R324), so the operation has none. -/
def txSend (frame : List Byte) (s : State) : State := s.emit (.frame frame)

/-- The result codes (R301). Codes 8 to 15 are reserved and never produced. -/
inductive ResultCode where
  | ok
  | connectionFailed
  | deliveryFailed
  | disconnectRequested
  | readCorrupt
  | bufferExhausted
  | malformedEscape
  | closeError
deriving DecidableEq, Repr

/-- CODE, the result code's number (R301). -/
def codeNumber : ResultCode → BitVec 4
  | .ok => 0#4
  | .connectionFailed => 1#4
  | .deliveryFailed => 2#4
  | .disconnectRequested => 3#4
  | .readCorrupt => 4#4
  | .bufferExhausted => 5#4
  | .malformedEscape => 6#4
  | .closeError => 7#4

/-- The response word: LEN in [31:16], zero in [15:4], CODE in [3:0] (R105). -/
def respWord (len : Half) (c : ResultCode) : Word := len ++ 0#12 ++ codeNumber c

/-- The LEN field of a response that announces `n` bytes; a free value when `n` does not fit 16 bits (log 15). -/
def State.respLen (s : State) (n : Nat) : Half :=
  if n < 65536 then BitVec.ofNat 16 n else Config.freeLen s.freeCount

/-- How many free values have been taken after such a response. -/
def State.respFree (s : State) (n : Nat) : Nat := if n < 65536 then s.freeCount else s.freeCount + 1

/-- `Respond(code, len, data)` (R301, R105). -/
def respond (c : ResultCode) (n : Nat) (data : List Byte) (s : State) : State :=
  { s.emit (.response (respWord (s.respLen n) c) data) with freeCount := s.respFree n }

/-- `TransportOpen(CFG_PORT, CFG_BAUD)` and the environment's answer, which came with the command (R210, R323, log 5). -/
def transportOpen (s : State) : State := s.emit (.transportOpen s.cfgPort s.cfgBaud s.port.transportOk)

/-- `TransportClose(); topen <- 0` (R323). -/
def transportClose (s : State) : State := { s.emit .transportClose with topen := false }

/-- The frames sent so far, in order (R331). -/
def framesSent : List Output → List (List Byte)
  | [] => []
  | .frame f :: os => f :: framesSent os
  | .response _ _ :: os => framesSent os
  | .transportOpen _ _ _ :: os => framesSent os
  | .transportClose :: os => framesSent os

/-- The byte sequence sent so far: each frame is written whole, in order (R76). -/
def bytesSent (os : List Output) : List Byte := (framesSent os).flatten

/-! ### The timer -/

/-- `ArmTimer()`: a fresh timeout of CFG_TIMEOUT starts, and any pending one is dropped (R318). No time is modelled
(R361), so the register is the whole effect. -/
def armTimer (s : State) : State := { s with timerArmed := true }

/-- `DisarmTimer()`, and the first effect of taking an expiry (R318). -/
def disarmTimer (s : State) : State := { s with timerArmed := false }

/-! ### The parser's position -/

/-- `ps <- Idle` (R198). -/
def idleParser (s : State) : State := { s with parser := { s.parser with ps := .idle } }

/-! ### Ending a command -/

/-- What ends a command, with a success or an error: the phase it returns to and the response, in that order (R317, R319:
no state is saved and nothing returns; R301: one response, in the step that ends the command). The other changes a
rule lists stand before it. -/
def endCommand (ph : Phase) (c : ResultCode) (n : Nat) (data : List Byte) (s : State) : State :=
  respond c n data { s with phase := ph }

/-- A host violation: `fault <- 1`, no response, and no other register changes; an outstanding command stays outstanding
(R313). The machine goes on. -/
def hostViolation (s : State) : State := { s with fault := true }

/-- The outcome of a command the core does not accept (R312, R313). -/
def violate (s : State) : Result := .next (hostViolation s)

end Sys2Proof.Machine
end

