-- ==== Sys2Proof/Machine/Parser.lean ====
section
/-! DEFINITION. The frame parser (43_parser.md R180 to R197): the transition a received byte makes, and the Done step. -/

namespace Sys2Proof.Machine

/-- The `info` of a MalformedFrame (R300). "No register records it and no response carries it": it is part of what
the pure functions answer, for the reader. -/
inductive Malformed where
  | address
  | control
  | length
  | overflow
  | header
  | escape
  | empty
  | payload
deriving DecidableEq, Repr

/-- The parser's output (R180). -/
inductive ParserOut where
  | none
  | candidate (a c : Byte) (raw : List Byte)
  | headerFail (a c : Byte)
deriving DecidableEq, Repr

/-- A transition's result: the registers, and the error class it raises, if any. -/
structure Parsed where
  parser : Parser
  raised : Option Malformed
deriving DecidableEq, Repr

/-- A transition that raises nothing. -/
def Parsed.to (p : Parser) : Parsed := { parser := p, raised := none }

/-- A malformed frame is dropped: `raise MalformedFrame(m); ps <- Idle` (R302). -/
def Parsed.drop (p : Parser) (m : Malformed) : Parsed := { parser := { p with ps := .idle }, raised := some m }

/-- Idle: only the delimiter starts a frame (R183, R184). -/
def parseIdle (p : Parser) (b : Byte) : Parsed :=
  if b = delim then .to { p with ps := .sawAddress } else .to p

/-- SawAddress: padding, an address, or an abort (R185, R186, R187). -/
def parseAddress (p : Parser) (b : Byte) : Parsed :=
  if b = delim then .to p
  else if b ∈ addrSet then .to { p with pa := b, ps := .sawControl }
  else .drop p .address

/-- SawControl: a restart, an accepted control byte, or an abort (R188, R189, R190). -/
def parseControl (ph : Phase) (p : Parser) (b : Byte) : Parsed :=
  if b = delim then .to { p with ps := .sawAddress }
  else if b ∈ ctrlSet ph then .to { p with pc := b, ps := .sawChecksum }
  else .drop p .control

/-- SawChecksum: a restart, or BCC1 whatever its value (R191, R192). -/
def parseChecksum (p : Parser) (b : Byte) : Parsed :=
  if b = delim then .to { p with ps := .sawAddress }
  else .to { p with pbcc := b, rawlen := 0, ps := .inPayload }

/-- InPayload: the closing delimiter enters Done (R193); another byte ends an S-frame as malformed (R194), overflows the
raw buffer (R195), or is buffered as it is (R196). A rawlen above RAW_CAP, which no run reaches, overflows too
(log 23). -/
def parsePayload (par : Params) (p : Parser) (b : Byte) : Parsed :=
  if b = delim then .to { p with ps := .done }
  else if p.pc ∈ sCtrl then .drop p .length
  else if p.rawlen < par.rawCap then
    .to { p with rawbuf := Memory.write p.rawbuf p.rawlen b, rawlen := p.rawlen + 1 }
  else .drop p .overflow

/-- The transition of a received byte, up to Done (R183 to R196). At Done itself no byte is ever taken (R42); the
function leaves the registers as they are, and the step that would call it stops (log 11). -/
def parseByte (par : Params) (ph : Phase) (p : Parser) (b : Byte) : Parsed :=
  match p.ps with
  | .idle => parseIdle p b
  | .sawAddress => parseAddress p b
  | .sawControl => parseControl ph p b
  | .sawChecksum => parseChecksum p b
  | .inPayload => parsePayload par p b
  | .done => .to p

/-- The Done step's output for a frame whose control byte is `c` (R197): the header checksum is checked, and a failure is
reported as HeaderFail. -/
def frameOut (c : Byte) (p : Parser) : ParserOut :=
  if p.pbcc = hcs p.pa c then .candidate p.pa c p.raw else .headerFail p.pa c

/-- `ParseStep` (R180): the transition and, at the closing delimiter, the Done step that leaves the parser in Idle
(R193, R197). -/
def parseStep (par : Params) (ph : Phase) (p : Parser) (b : Byte) : Parser × ParserOut :=
  let q := (parseByte par ph p b).parser
  if q.ps = .done then ({ q with ps := .idle }, frameOut q.pc q) else (q, .none)

/-- `ParseStep` over a sequence of bytes: the parser after them, and its outputs in order. -/
def parseAll (par : Params) (ph : Phase) : Parser → List Byte → Parser × List ParserOut
  | p, [] => (p, [])
  | p, b :: bs =>
    let r := parseStep par ph p b
    let t := parseAll par ph r.1 bs
    (t.1, r.2 :: t.2)

end Sys2Proof.Machine
end

