-- ==== Sys2Proof/Machine/Connection.lean ====
section
/-! DEFINITION. The connection manager: OPEN and CLOSE, the frames SET, UA and DISC, and the timer's expiry in T_SETUP
(44_connection.md R210 to R230; DISC in R_READ is 46 R263, R264). -/

namespace Sys2Proof.Machine

/-! ### Taking a frame -/

/-- The frame in the parser is the supervision frame the phase waits for: its header is right, its address is `a`, and it
has no raw part (R199, and the consumer rules' `Candidate(a, c, [])`). -/
def State.takes (s : State) (a c : Byte) : Bool := frameOut c s.parser = .candidate a c []

/-- A frame the phase does not wait for is dropped: the parser is in Idle after Done (R197), and nothing else changes
(R199, R216, R219, R222, R226, R228, R248). -/
def ignoreFrame (s : State) : Result := .next (idleParser s)

/-! ### OPEN -/

/-- R210 before the transport's answer: the configuration is latched and the connection's state initialised. -/
def openInit (role : Role) (k : Byte) (s : State) : State :=
  { s with
    role := role
    cfgMaxRetry := k
    cfgTimeout := s.port.timeout
    cfgBaud := s.port.baud
    cfgPort := s.port.port
    ns := 0#1
    nr := 0#1
    retry := 0#8
    discSeen := false
    parser := { s.parser with ps := .idle, rawlen := 0 } }

/-- R211: the transport's open answered Error. -/
def openFailed (s : State) : State := endCommand .closed .connectionFailed 0 [] { s with topen := false }

/-- R212: role Transmitter sends SET and arms the timer. -/
def openTransmitter (s : State) : State := { armTimer (txSend setFrame s) with phase := .tSetup }

/-- R217: role Receiver waits, with no timer. -/
def openReceiver (s : State) : State := { s with phase := .rSetup }

/-- R210 after TransportOpen: R211 on Error, else topen and the role's rule. -/
def openAnswered (s : State) : State :=
  if s.port.transportOk then
    match s.role with
    | .transmitter => openTransmitter { s with topen := true }
    | .receiver => openReceiver { s with topen := true }
  else openFailed s

/-- Whether the core accepts this OPEN: phase CLOSED, and K ≥ 1 for role Transmitter (R210, R312 d); no data operand
(R312 h, log 14). -/
def openAccepted (role : Role) (k : Byte) (s : State) : Bool :=
  s.phase = .closed && (role = .receiver || k ≠ 0#8) && s.dataFits 0

/-- OPEN (R210, R211, R212, R217). -/
def execHostOpen (role : Role) (k : Nat) (s : State) : Result :=
  if openAccepted role (BitVec.ofNat 8 k) s then
    .next (openAnswered (transportOpen (openInit role (BitVec.ofNat 8 k) s)))
  else violate s

/-! ### CLOSE -/

/-- R220: role Transmitter in OPEN sends DISC and waits. -/
def closeTransmitter (s : State) : State := { idleParser (txSend discFrameT s) with phase := .tTeardown }

/-- R223: role Receiver that has not seen a DISC waits for one. -/
def closeReceiver (s : State) : State := { idleParser s with phase := .rTeardownDisc }

/-- R224: role Receiver whose READ took the DISC answers it at once. -/
def closeReceiverSeen (s : State) : State := { idleParser (txSend discFrameR s) with phase := .rTeardownUa }

/-- R229: CLOSE of a broken connection. -/
def closeBroken (s : State) : State := endCommand .closed .closeError 0 [] (transportClose s)

/-- CLOSE (R220, R223, R224, R229); a violation in every other phase (R230, R312 c and g). -/
def execHostClose (s : State) : Result :=
  if s.dataFits 0 then
    match s.phase with
    | .opened =>
      match s.role with
      | .transmitter => .next (closeTransmitter s)
      | .receiver => .next (if s.discSeen then closeReceiverSeen s else closeReceiver s)
    | .broken => .next (closeBroken s)
    | .closed => violate s
    | .tSetup => violate s
    | .rSetup => violate s
    | .tWaitAck => violate s
    | .rRead => violate s
    | .tTeardown => violate s
    | .rTeardownDisc => violate s
    | .rTeardownUa => violate s
  else violate s

/-! ### SET, UA, DISC -/

/-- R218: SET@03 completes the receiver's OPEN. -/
def setupReceived (s : State) : State := endCommand .opened .ok 0 [] { txSend uaFrameT s with nr := 0#1 }

/-- SET: R218 in R_SETUP; ignored elsewhere (R216, R219, R222, R226, R228, R248). -/
def execCtlSet (s : State) : Result :=
  if s.phase = .rSetup && s.takes addrT codeSet then .next (setupReceived (idleParser s)) else ignoreFrame s

/-- R213: UA@03 completes the transmitter's OPEN. -/
def setupAcknowledged (s : State) : State := endCommand .opened .ok 0 [] { disarmTimer s with ns := 0#1 }

/-- R227: UA@01 completes the receiver's CLOSE. -/
def teardownAcknowledged (s : State) : State := endCommand .closed .ok 0 [] (transportClose s)

/-- UA: R213 in T_SETUP, R227 in R_TEARDOWN_UA; ignored elsewhere. -/
def execCtlUa (s : State) : Result :=
  if s.phase = .tSetup && s.takes addrT codeUa then .next (setupAcknowledged (idleParser s))
  else if s.phase = .rTeardownUa && s.takes addrR codeUa then .next (teardownAcknowledged (idleParser s))
  else ignoreFrame s

/-- R221: DISC@01 completes the transmitter's CLOSE. -/
def teardownAnswered (s : State) : State := endCommand .closed .ok 0 [] (transportClose (txSend uaFrameR s))

/-- R225: DISC@03 in R_TEARDOWN_DISC is answered with DISC@01. -/
def teardownReceived (s : State) : State := { txSend discFrameR s with phase := .rTeardownUa }

/-- R264: DISC@03 ends a READ with DISCONNECT_REQUESTED. -/
def disconnectRequested (s : State) : State :=
  endCommand .opened .disconnectRequested 0 [] { s with discSeen := true }

/-- DISC: R221 in T_TEARDOWN, R225 in R_TEARDOWN_DISC, R264 in R_READ; ignored elsewhere, a failed header in R_READ
included (R263). -/
def execCtlDisc (s : State) : Result :=
  if s.phase = .tTeardown && s.takes addrR codeDisc then .next (teardownAnswered (idleParser s))
  else if s.phase = .rTeardownDisc && s.takes addrT codeDisc then .next (teardownReceived (idleParser s))
  else if s.phase = .rRead && s.takes addrT codeDisc then .next (disconnectRequested (idleParser s))
  else ignoreFrame s

/-! ### The timer in T_SETUP -/

/-- R214: another SET, after the expiry has cleared timer_armed. -/
def setupResend (s : State) : State :=
  armTimer (txSend setFrame (idleParser { s with retry := s.retry + 1#8 }))

/-- R215: the k-th timeout ends OPEN with CONNECTION_FAILED. -/
def setupExhausted (s : State) : State :=
  endCommand .closed .connectionFailed 0 [] (transportClose (idleParser { s with retry := s.cfgMaxRetry }))

/-- An expiry in T_SETUP: R214 when retry + 1 < k, R215 when retry + 1 = k, counted on naturals (R14). -/
def setupExpiry (s : State) : Result :=
  if s.retry.toNat + 1 < s.cfgMaxRetry.toNat then .next (setupResend s)
  else if s.retry.toNat + 1 = s.cfgMaxRetry.toNat then .next (setupExhausted s)
  else .fault .retryBeyondLimit

end Sys2Proof.Machine
end

