-- ==== Sys2Proof/Machine/ArqRx.lean ====
section
/-! DEFINITION. The ARQ receiver: READ and the information frames (46_arq_rx.md R260 to R271). -/

namespace Sys2Proof.Machine

/-! ### READ -/

/-- READ (R260); a violation in another phase or role (R312 c, f). -/
def execHostRead (s : State) : Result :=
  if s.phase = .opened && s.role = .receiver && s.dataFits 0 then
    .next { s with parser := { s.parser with ps := .idle, rawlen := 0 }, phase := .rRead }
  else violate s

/-! ### Judging a region -/

/-- What the receiver makes of a Candidate's raw region (R266 to R271). -/
inductive Verdict where
  /-- Answered with REJ, and the error class that is raised. -/
  | reject (why : Malformed)
  /-- The destuffed region is longer than DST_CAP (R267). -/
  | corrupt
  /-- A new frame's payload (R270). -/
  | fresh (p : List Byte)
  /-- A retransmission of a frame already accepted (R271). -/
  | duplicate
deriving DecidableEq, Repr

/-- R268 to R271 on the destuffed region `d` of a frame with sequence bit `n`, in that order. -/
def judge (nr n : Bit) (d : List Byte) : Verdict :=
  match d.getLast? with
  | none => .reject .empty
  | some q =>
    if pcs d.dropLast ≠ q then .reject .payload
    else if n = nr then .fresh d.dropLast
    else .duplicate

/-- `REJ(nr)`: stay in R_READ (R262, R266, R268, R269). -/
def sendRej (s : State) : State := txSend (rejFrame s.nr) s

/-- R267: READ ends with READ_CORRUPT, nothing is sent and nr is unchanged. -/
def readCorrupt (s : State) : State := endCommand .opened .readCorrupt 0 [] s

/-- R270: nr toggles, RR carries the new value, and the payload is delivered. -/
def deliver (p : List Byte) (s : State) : State :=
  endCommand .opened .ok p.length p (txSend (rrFrame s.nr.flip) { s with nr := s.nr.flip })

/-- R271: RR carries the current expected value; nothing is delivered. -/
def answerDuplicate (s : State) : State := txSend (rrFrame s.nr) s

/-- The effect of each verdict. -/
def actOn (v : Verdict) (s : State) : State :=
  match v with
  | .reject _ => sendRej s
  | .corrupt => readCorrupt s
  | .fresh p => deliver p s
  | .duplicate => answerDuplicate s

/-- R266: the region is destuffed with capacity DST_CAP; on success dstbuf receives it and R268 to R271 judge it. -/
def receiveRegion (n : Bit) (raw : List Byte) (s : State) : State :=
  match destuff s.par raw s.par.dstCap with
  | .error (.malformedEscape _) => actOn (.reject .escape) s
  | .error (.bufferExhausted _) => actOn .corrupt s
  | .ok d => actOn (judge s.nr n d) { s with dstbuf := Memory.writeAll s.dstbuf 0 d }

/-! ### I0 and I1 -/

/-- An information frame with sequence bit `n` taken in R_READ: REJ on a failed header whatever the address (R262), ignored
at any address but 0x03 (R265), and otherwise R266 to R271. Outside R_READ an I-control is never accepted by the
parser (R181); the frame is ignored (log 21). -/
def takeInfo (n : Bit) (s : State) : Result :=
  if s.phase = .rRead then
    match frameOut (ctrlI n) s.parser with
    | .none => ignoreFrame s
    | .headerFail _ _ => .next (actOn (.reject .header) (idleParser s))
    | .candidate a _ raw => if a = addrT then .next (receiveRegion n raw (idleParser s)) else ignoreFrame s
  else ignoreFrame s

/-- I0 (R262, R265 to R271). -/
def execCtlI0 (s : State) : Result := takeInfo 0#1 s
/-- I1 (R262, R265 to R271). -/
def execCtlI1 (s : State) : Result := takeInfo 1#1 s

end Sys2Proof.Machine
end

