-- ==== Sys2Proof/Machine/ArqTx.lean ====
section
/-! DEFINITION. The ARQ transmitter: WRITE, the frames RR and REJ, and the timer's expiry in T_WAIT_ACK
(45_arq_tx.md R240 to R248). -/

namespace Sys2Proof.Machine

/-! ### WRITE -/

/-- R240, and a stuff that fails at WRITE (C7, log 13): the call ends with BUFFER_EXHAUSTED and nothing is sent. -/
def writeRefused (s : State) : State := respond .bufferExhausted 0 [] s

/-- R241 with the frame `f` that BuildI gave: it is copied into txbuf, sent, and the timer armed. -/
def writeSent (f : List Byte) (len : Nat) (s : State) : State :=
  { armTimer (txSend f (idleParser
      { s with
        txbuf := Memory.writeAll s.txbuf 0 f
        txlen := f.length
        wlen := BitVec.ofNat 16 len
        retry := 0#8 })) with phase := .tWaitAck }

/-- WRITE (R240, R241); a violation in another phase or role, or when the data operand has not LEN bytes (R312 c, e, h). -/
def execHostWrite (len : Nat) (s : State) : Result :=
  if s.phase = .opened && s.role = .transmitter && s.dataFits len then
    if len ≤ s.par.maxPayload then
      match buildI s.par s.ns s.port.data with
      | .ok f => .next (writeSent f len s)
      | .error _ => .next (writeRefused s)
    else .next (writeRefused s)
  else violate s

/-! ### RR and REJ -/

/-- R244: the accept ends WRITE with the payload length. -/
def writeAccepted (s : State) : State :=
  endCommand .opened .ok s.wlen.toNat [] { disarmTimer s with ns := s.ns.flip }

/-- R245: the reject retransmits and restarts the timer; retry is unchanged. -/
def writeRejected (s : State) : State := armTimer (txSend s.txFrame s)

/-- RR(n) taken: the accept when it carries "the other value of Ns" (R242, R244), ignored otherwise (R248). -/
def takeRr (n : Bit) (s : State) : Result :=
  if s.phase = .tWaitAck && n = s.ns.flip && s.takes addrT (ctrlRR n) then .next (writeAccepted (idleParser s))
  else ignoreFrame s

/-- REJ(n) taken: the reject when it carries the current ns (R242, R245), ignored otherwise (R248). -/
def takeRej (n : Bit) (s : State) : Result :=
  if s.phase = .tWaitAck && n = s.ns && s.takes addrT (ctrlREJ n) then .next (writeRejected (idleParser s))
  else ignoreFrame s

/-- RR0 (R242, R244, R248). -/
def execCtlRr0 (s : State) : Result := takeRr 0#1 s
/-- RR1 (R242, R244, R248). -/
def execCtlRr1 (s : State) : Result := takeRr 1#1 s
/-- REJ0 (R242, R245, R248). -/
def execCtlRej0 (s : State) : Result := takeRej 0#1 s
/-- REJ1 (R242, R245, R248). -/
def execCtlRej1 (s : State) : Result := takeRej 1#1 s

/-! ### The timer in T_WAIT_ACK -/

/-- R246: the frame again, after the expiry has cleared timer_armed. -/
def writeResend (s : State) : State :=
  armTimer (txSend s.txFrame (idleParser { s with retry := s.retry + 1#8 }))

/-- R247: the k-th timeout sends a best-effort DISC and ends WRITE with DELIVERY_FAILED; ns is not changed. -/
def writeExhausted (s : State) : State :=
  endCommand .broken .deliveryFailed 0 [] (txSend discFrameT (idleParser { s with retry := s.cfgMaxRetry }))

/-- An expiry in T_WAIT_ACK: R246 when retry + 1 < k, R247 when retry + 1 = k, counted on naturals (R14). -/
def ackExpiry (s : State) : Result :=
  if s.retry.toNat + 1 < s.cfgMaxRetry.toNat then .next (writeResend s)
  else if s.retry.toNat + 1 = s.cfgMaxRetry.toNat then .next (writeExhausted s)
  else .fault .retryBeyondLimit

end Sys2Proof.Machine
end

