-- ==== Sys2Proof/Machine/Unit.lean ====
section
/-! DEFINITION. The unit commands, accepted in the idle phases (40_codec.md R136, R137; 41_checksum.md R153 to R155). -/

namespace Sys2Proof.Machine

/-- A unit command is accepted when the phase is idle and the data operand has the bytes it announces (R312 c, h). -/
def State.acceptsUnit (s : State) (n : Nat) : Bool := !s.phase.busy && s.dataFits n

/-- A codec result as the response of its unit command (R136, R137): on success the output goes to unitbuf (R71) and to
the host; an error becomes the result code of its name. -/
def respondCodec (r : Except CodecError (List Byte)) (s : State) : State :=
  match r with
  | .ok out => respond .ok out.length out { s with unitbuf := Memory.writeAll s.unitbuf 0 out }
  | .error (.malformedEscape _) => respond .malformedEscape 0 [] s
  | .error (.bufferExhausted _) => respond .bufferExhausted 0 [] s

/-- STUFF (R136). -/
def execUnitStuff (len : Nat) (s : State) : Result :=
  if s.acceptsUnit len then .next (respondCodec (stuff s.par s.port.data s.par.unitCap) s) else violate s

/-- DESTUFF (R137). -/
def execUnitDestuff (len : Nat) (s : State) : Result :=
  if s.acceptsUnit len then .next (respondCodec (destuff s.par s.port.data s.par.unitCap) s) else violate s

/-- HCS (R153). -/
def execUnitHcs (a c : Byte) (s : State) : Result :=
  if s.acceptsUnit 0 then .next (respond .ok 1 [hcs a c] s) else violate s

/-- PCS (R154). -/
def execUnitPcs (len : Nat) (s : State) : Result :=
  if s.acceptsUnit len then .next (respond .ok 1 [pcs s.port.data] s) else violate s

/-- HDRCHK (R155): 0x01 for true and 0x00 for false. -/
def execUnitHdrchk (a c bcc : Byte) (s : State) : Result :=
  if s.acceptsUnit 0 then .next (respond .ok 1 [if isValidHeader a c bcc then 0x01#8 else 0x00#8] s) else violate s

end Sys2Proof.Machine
end

