-- ==== Sys2Proof/Machine/Dispatch.lean ====
section
/-! DEFINITION. One arm per instruction. A control code's meaning is the parser's Done step and the phase's consumer
(R197, R199); a host command's meaning is its acceptance and its effect (R104). -/

namespace Sys2Proof.Machine

def exec (i : Instr) (s : State) : Host.Outcome State Fault Refusal :=
  match i with
  | .ctlI0 => Sys2Proof.Machine.execCtlI0 s
  | .ctlI1 => Sys2Proof.Machine.execCtlI1 s
  | .ctlSet => Sys2Proof.Machine.execCtlSet s
  | .ctlUa => Sys2Proof.Machine.execCtlUa s
  | .ctlDisc => Sys2Proof.Machine.execCtlDisc s
  | .ctlRr0 => Sys2Proof.Machine.execCtlRr0 s
  | .ctlRr1 => Sys2Proof.Machine.execCtlRr1 s
  | .ctlRej0 => Sys2Proof.Machine.execCtlRej0 s
  | .ctlRej1 => Sys2Proof.Machine.execCtlRej1 s
  | .hostOpen role k => Sys2Proof.Machine.execHostOpen role k s
  | .hostWrite len => Sys2Proof.Machine.execHostWrite len s
  | .hostRead => Sys2Proof.Machine.execHostRead s
  | .hostClose => Sys2Proof.Machine.execHostClose s
  | .unitStuff len => Sys2Proof.Machine.execUnitStuff len s
  | .unitDestuff len => Sys2Proof.Machine.execUnitDestuff len s
  | .unitHcs a c => Sys2Proof.Machine.execUnitHcs a c s
  | .unitPcs len => Sys2Proof.Machine.execUnitPcs len s
  | .unitHdrchk a c bcc => Sys2Proof.Machine.execUnitHdrchk a c bcc s

end Sys2Proof.Machine
end

