-- ==== Sys2Proof/Machine/Events.lean ====
section
/-! DEFINITION. What the core does with each input event (R314): a host command, a received byte, a timer expiry. -/

namespace Sys2Proof.Machine

/-- `Cmd(w, data)`: the command is presented at the port and its word decoded. A reserved OP or a nonzero unused field is
a host violation (R312 a, b); every other word runs as its instruction. -/
def takeCommand (c : Command) (s : State) : Result :=
  match decodeCmd c.word with
  | .ok i => exec i { s with port := c }
  | .error _ => violate { s with port := c }

/-- The Done step (R193, R197): the captured control byte is decoded and its instruction run. -/
def runFrame (s : State) : Result :=
  match decodeCtrl s.parser.pc with
  | .ok i => exec i s
  | .error _ => .fault .captureInvalid

/-- InPayload with a captured control byte that is none of the nine, which no run reaches (R43, log 11). -/
def captureBroken (p : Parser) : Bool := p.ps = .inPayload && !(p.pc ∈ sCtrl ++ iCtrl)

/-- One byte through the parser (R180). When the transition enters Done, the frame's instruction runs in the same step
(R193, R199). -/
def takeByte (b : Byte) (s : State) : Result :=
  if s.parser.ps = .done then .fault .parserHeldDone
  else if captureBroken s.parser then .fault .captureInvalid
  else
    let p := (parseByte s.par s.phase s.parser b).parser
    if p.ps = .done then runFrame { s with parser := p } else .next { s with parser := p }

/-- `RxByte`: enabled only while the phase is busy and the transport has a byte (R32, R75, R314). Where it is not enabled
nothing happens, and bytes stay queued (R54, R325, log 2). -/
def takeRx (s : State) : Result :=
  if s.phase.busy then
    match s.rxQueue with
    | [] => .next s
    | b :: q => takeByte b { s with rxQueue := q }
  else .next s

/-- `Expiry`: enabled exactly while timer_armed = 1; taking it clears timer_armed and runs the phase's rule (R318). Where it
is not enabled nothing happens (log 2). -/
def takeExpiry (s : State) : Result :=
  if s.timerArmed then
    match s.phase with
    | .tSetup => setupExpiry (disarmTimer s)
    | .tWaitAck => ackExpiry (disarmTimer s)
    | .closed => .fault .expiryOutsideWait
    | .rSetup => .fault .expiryOutsideWait
    | .opened => .fault .expiryOutsideWait
    | .rRead => .fault .expiryOutsideWait
    | .tTeardown => .fault .expiryOutsideWait
    | .rTeardownDisc => .fault .expiryOutsideWait
    | .rTeardownUa => .fault .expiryOutsideWait
    | .broken => .fault .expiryOutsideWait
  else .next s

/-- Bytes reach the transport's queue, in order, behind those it already holds (R54). -/
def takeArrival (bs : List Byte) (s : State) : Result := .next { s with rxQueue := s.rxQueue ++ bs }

/-- One event, already taken off the environment's list. -/
def takeEvent (e : Event) (s : State) : Result :=
  match e with
  | .cmd c => takeCommand c s
  | .rxByte => takeRx s
  | .expiry => takeExpiry s
  | .arrive bs => takeArrival bs s

/-- The event is a host command (R314). -/
def Event.isCommand : Event → Bool
  | .cmd _ => true
  | .rxByte => false
  | .expiry => false
  | .arrive _ => false

/-! ### Placing one instruction (log 16) -/

/-- The command `w` with as many zero data bytes as its LEN announces, zero side operands, and a transport that opens. -/
def zeroCommand (w : Word) : Command :=
  { word := w
    data := List.replicate (match decodeCmd w with | .ok i => i.dataLen | .error _ => 0) 0x00#8
    timeout := 0
    baud := 0
    port := 0
    transportOk := true }

/-- A phase whose consumer acts on the control code `c`, used when the present phase does not accept it. -/
def waitingPhase (c : Byte) : Phase :=
  if c = codeI0 ∨ c = codeI1 ∨ c = codeDisc then .rRead
  else if c = codeSet then .rSetup
  else if c = codeUa then .tSetup
  else .tWaitAck

/-- The phase in which a frame with the control code `c` is taken: the present one where it accepts the code. -/
def framePhase (ph : Phase) (c : Byte) : Phase :=
  if ph.busy = true ∧ c ∈ ctrlSet ph then ph else waitingPhase c

/-- The address the phase's consumer expects with the control code (R92): 0x01 for the DISC of T_TEARDOWN and the UA of
R_TEARDOWN_UA, 0x03 otherwise. -/
def frameAddr (ph : Phase) (c : Byte) : Byte :=
  if (ph = .tTeardown ∧ c = codeDisc) ∨ (ph = .rTeardownUa ∧ c = codeUa) then addrR else addrT

/-- The parser just before the closing delimiter of a frame with address `a` and control `c`: no raw bytes for an S-code,
the one byte 0x00 (the region of an empty payload) for an I-code. -/
def parserAtEnd (a c : Byte) (p : Parser) : Parser :=
  { p with
    ps := .inPayload
    pa := a
    pc := c
    pbcc := hcs a c
    rawbuf := if c ∈ iCtrl then Memory.write p.rawbuf 0 0x00#8 else p.rawbuf
    rawlen := if c ∈ iCtrl then 1 else 0 }

/-- The control code `c` made the next instruction: a phase that accepts it, the frame's bytes in the parser up to the
closing delimiter, and that delimiter as the next event. -/
def placeFrame (c : Byte) (s : State) : State :=
  { s with
    phase := framePhase s.phase c
    parser := parserAtEnd (frameAddr (framePhase s.phase c) c) c s.parser
    rxQueue := delim :: s.rxQueue
    events := .rxByte :: s.events }

/-- The command word `w` made the next instruction: the host issues it next. -/
def placeCommand (w : Word) (s : State) : State := { s with events := .cmd (zeroCommand w) :: s.events }

end Sys2Proof.Machine
end

