-- ==== Sys2Proof/Machine/Step.lean ====
section
/-! DEFINITION. One step: the core consumes the next event of the environment's list (R314). -/

namespace Sys2Proof.Machine

/-- One step of the core. With no event left the core waits: "the core has no step", no state is lost and nothing changes
(R201, R314, R328; log 1). -/
def step (s : State) : Host.Outcome State Fault Refusal :=
  match s.events with
  | [] => .next s
  | e :: es => takeEvent e { s with events := es }

/-- `s` with the instruction of an opcode-table row placed so that the very next step fetches and runs it (log 16): a host
command becomes the next event; a control code becomes the captured control byte of a frame whose closing delimiter
is the next byte. -/
def State.withFetchWord (s : State) (nbits w : Nat) : State :=
  if nbits = 8 then placeFrame (BitVec.ofNat 8 w) s
  else if nbits = 32 then placeCommand (BitVec.ofNat 32 w) s
  else s

end Sys2Proof.Machine
end

