-- ==== Sys2Proof/Machine/Flags.lean ====
section
/-! DEFINITION. The core has no condition codes (R52). Its status is the read-only status port (R53), written here as a
view of the registers: reading it is a function of the state, so it has no side effect and is allowed in any phase. -/

namespace Sys2Proof.Machine

/-- The phase's 4-bit code (R30). -/
def Phase.code : Phase → BitVec 4
  | .closed => 0#4
  | .tSetup => 1#4
  | .rSetup => 2#4
  | .opened => 3#4
  | .tWaitAck => 4#4
  | .rRead => 5#4
  | .tTeardown => 6#4
  | .rTeardownDisc => 7#4
  | .rTeardownUa => 8#4
  | .broken => 9#4

/-- The parser position's 3-bit code (R42). -/
def Pos.code : Pos → BitVec 3
  | .idle => 0#3
  | .sawAddress => 1#3
  | .sawControl => 2#3
  | .sawChecksum => 3#3
  | .inPayload => 4#3
  | .done => 5#3

/-- STATUS, register 0 of the status port, most significant field first (R53). -/
def State.statusWord (s : State) : Word :=
  0#8 ++ s.retry ++ 0#2 ++ s.parser.ps.code ++ bitOf s.topen ++ bitOf s.fault ++ bitOf s.discSeen ++
    bitOf s.timerArmed ++ s.nr ++ s.ns ++ s.role.code ++ s.phase.code

/-- The status port, indexed by register number (R53). Registers 2 to 4 are opaque values of OPEN width, so a read gives
a natural number (log 9); registers 0 and 1 give their 32-bit word, and every register from 5 on reads 0. -/
def State.statusPort (s : State) (n : Nat) : Nat :=
  if n = 0 then s.statusWord.toNat
  else if n = 1 then s.cfgMaxRetry.toNat
  else if n = 2 then s.cfgTimeout
  else if n = 3 then s.cfgBaud
  else if n = 4 then s.cfgPort
  else 0

end Sys2Proof.Machine
end

