-- ==== Sys2Proof/Machine/System.lean ====
section
/-! DEFINITION. Two cores joined by a channel (R12, R326, R327): the cores share no state, and the byte sequence one core
sends becomes the byte sequence the other receives through the channel, and in no other way (log 18). -/

namespace Sys2Proof.Machine

/-! ### The channel -/

/-- What becomes of one sent byte: received, as itself or corrupted, or lost. -/
abbrev Fate := Option Byte

/-- The bytes received when the bytes sent meet these fates, one each. They come in the order they were sent: the channel
is a serial line and "never reorders bytes" (R327). -/
def received : List Fate → List Byte
  | [] => []
  | none :: fs => received fs
  | some b :: fs => b :: received fs

/-- `CHANNEL` (R327): for the whole sequence of bytes one core sends, which fates they may meet. Fates give the received
sequence in sent order, so every channel keeps byte order (D35). -/
abbrev Channel := List Byte → List Fate → Prop

/-- The relation between the byte sequence sent and the byte sequence received (R327). -/
def Channel.relates (ch : Channel) (sent got : List Byte) : Prop :=
  ∃ fs, fs.length = sent.length ∧ ch sent fs ∧ received fs = got

/-- Delivery in order, unchanged (R327). -/
def Channel.perfect : Channel := fun sent fs => fs = sent.map some

/-- A channel that may lose any byte, and corrupts none. -/
def Channel.losing : Channel := List.Forall₂ fun b f => f = none ∨ f = some b

/-- A channel that may corrupt any byte, and loses none. -/
def Channel.corrupting : Channel := List.Forall₂ fun _ f => f.isSome

/-- The fates of bytes from position `i` on: the stated one where a position has one, delivery unchanged elsewhere. -/
def statedFates (stated : List (Nat × Fate)) : Nat → List Byte → List Fate
  | _, [] => []
  | i, b :: bs => (stated.lookup i).getD (some b) :: statedFates stated (i + 1) bs

/-- A channel "that loses or corrupts stated bytes" (R327), each stated by its position in the sequence sent. -/
def Channel.stated (stated : List (Nat × Fate)) : Channel := fun sent fs => fs = statedFates stated 0 sent

/-! ### The system -/

/-- A system of two cores, and the fates of the bytes each has sent, oldest first. Bytes without a fate yet are on the line. -/
structure System where
  a : State
  b : State
  aFates : List Fate
  bFates : List Fate
deriving DecidableEq, Repr

/-- One of the two cores. -/
inductive Side where
  | a
  | b
deriving DecidableEq, Repr

/-- The three kinds of input event of a core (R314). A core of a system is offered these and no arrival: bytes reach it
through the channel alone. -/
inductive Input where
  | cmd (c : Command)
  | rxByte
  | expiry
deriving DecidableEq, Repr

/-- An input as the event a core takes. -/
def Input.event : Input → Event
  | .cmd c => .cmd c
  | .rxByte => .rxByte
  | .expiry => .expiry

/-- What happens next in the system: a core takes one input event, or the next bytes one core has sent meet their fates and
the other core's transport receives what they give. -/
inductive Move where
  | offer (side : Side) (e : Input)
  | carry (src : Side) (fs : List Fate)
deriving DecidableEq, Repr

/-- The bytes a side has sent so far. -/
def System.sent (y : System) : Side → List Byte
  | .a => bytesSent y.a.outputs
  | .b => bytesSent y.b.outputs

/-- The fates of the bytes a side has sent. -/
def System.fates (y : System) : Side → List Fate
  | .a => y.aFates
  | .b => y.bFates

/-- Bytes reach a core's transport. -/
def State.receive (got : List Byte) (s : State) : State := { s with rxQueue := s.rxQueue ++ got }

/-- A core takes the input `e` before the events it already has. -/
def State.offer (e : Input) (s : State) : Result := step { s with events := e.event :: s.events }

/-- One move of the system. A stop of either core stops the system. -/
def System.move (m : Move) (y : System) : Host.Outcome System Fault Refusal :=
  match m with
  | .offer .a e =>
    match y.a.offer e with
    | .next s => .next { y with a := s }
    | .fault r => .fault r
    | .refused r => .refused r
  | .offer .b e =>
    match y.b.offer e with
    | .next s => .next { y with b := s }
    | .fault r => .fault r
    | .refused r => .refused r
  | .carry .a fs => .next { y with b := y.b.receive (received fs), aFates := y.aFates ++ fs }
  | .carry .b fs => .next { y with a := y.a.receive (received fs), bFates := y.bFates ++ fs }

/-- A move the channels allow, one channel for each direction: a carry gives fates to bytes that have been sent, and the
fates so far begin some that the channel relates to the whole sequence sent. -/
def System.allows (ch : Side → Channel) (y : System) : Move → Prop
  | .offer _ _ => True
  | .carry src fs => ∃ rest, (y.fates src ++ fs ++ rest).length = (y.sent src).length ∧
      ch src (y.sent src) (y.fates src ++ fs ++ rest)

/-- Every byte sent has met its fate, as the channels have it: nothing is on the line. -/
def System.settled (ch : Side → Channel) (y : System) : Prop :=
  ∀ src, (y.fates src).length = (y.sent src).length ∧ ch src (y.sent src) (y.fates src)

/-- The moves of a run, in order. -/
def System.run : List Move → System → Host.Outcome System Fault Refusal
  | [], y => .next y
  | m :: ms, y =>
    match y.move m with
    | .next y' => System.run ms y'
    | .fault r => .fault r
    | .refused r => .refused r

/-- Every move of a run is one the channels allow where it is made. -/
def System.conforms (ch : Side → Channel) : List Move → System → Prop
  | [], _ => True
  | m :: ms, y => y.allows ch m ∧ ∀ y', y.move m = .next y' → System.conforms ch ms y'

/-- The moves that carry the bytes `f` unchanged from `src` and let the other core read them. -/
def relay (src dst : Side) (f : List Byte) : List Move :=
  .carry src (f.map some) :: List.replicate f.length (.offer dst .rxByte)

end Sys2Proof.Machine
end

