-- ==== Sys2Proof/Safety.lean ====
section
/-! DEFINITION. What counts as a sound state and a safe run: the invariant every step keeps, the contract (R313, R330, R331),
and the counts R301 and R323 speak of. -/

namespace Sys2Proof.Machine

/-- The states the rules allow. Each field cites the rule it comes from; the invariant rules out the states in which the
model stops (log 11). -/
structure State.Inv (s : State) : Prop where
  /-- R13, R132: the parameters keep their constraints. -/
  parOk : s.par.ok
  /-- R42: Done is never held between steps. -/
  notDone : s.parser.ps ≠ .done
  /-- R198: the parser is idle whenever no command is outstanding. -/
  idlePos : s.phase.busy = false → s.parser.ps = .idle
  /-- R186: past the address slot, `pa` holds one of the two addresses. -/
  address : s.parser.ps ∈ [.sawControl, .sawChecksum, .inPayload] → s.parser.pa ∈ addrSet
  /-- R189: past the control slot, `pc` holds a control code of the phase's set. -/
  control : s.parser.ps ∈ [.sawChecksum, .inPayload] → s.parser.pc ∈ ctrlSet s.phase
  /-- R44: rawlen counts from 0 to RAW_CAP. -/
  rawLen : s.parser.rawlen ≤ s.par.rawCap
  /-- R194: an S-frame has no raw part. -/
  rawOfS : s.parser.ps = .inPayload → s.parser.pc ∈ sCtrl → s.parser.rawlen = 0
  /-- R71, R72: each buffer is canonical and lies within its capacity. -/
  rawBuf : s.parser.rawbuf.wf ∧ s.parser.rawbuf.within s.par.rawCap
  dstBuf : s.dstbuf.wf ∧ s.dstbuf.within s.par.dstCap
  txBuf : s.txbuf.wf ∧ s.txbuf.within s.par.txbufCap
  unitBuf : s.unitbuf.wf ∧ s.unitbuf.within s.par.unitCap
  /-- R45: the held frame fits txbuf. -/
  txLen : s.txlen ≤ s.par.txbufCap
  /-- R41: the timer is armed in T_SETUP and T_WAIT_ACK and nowhere else. -/
  timer : s.timerArmed = true ↔ s.phase = .tSetup ∨ s.phase = .tWaitAck
  /-- R40: while the timer runs, the budget is not used up. -/
  budget : s.timerArmed = true → s.retry.toNat < s.cfgMaxRetry.toNat
  /-- R34: an open connection of role Transmitter has k ≥ 1. -/
  limit : s.phase ≠ .closed → s.role = .transmitter → s.cfgMaxRetry ≠ 0#8
  /-- R30, R321: the phases of each role. -/
  roleTx : s.phase ∈ [.tSetup, .tWaitAck, .tTeardown, .broken] → s.role = .transmitter
  roleRx : s.phase ∈ [.rSetup, .rRead, .rTeardownDisc, .rTeardownUa] → s.role = .receiver
  /-- R49, R323: the transport is held exactly while the phase is not CLOSED. -/
  transport : s.topen = true ↔ s.phase ≠ .closed
  /-- R47, R321: disc_seen belongs to role Receiver. -/
  disc : s.discSeen = true → s.role = .receiver
  /-- R243: while a WRITE is outstanding, txbuf holds the frame BuildI gives for some payload of wlen bytes and the
  current ns. -/
  held : s.phase = .tWaitAck → ∃ p : List Byte, p.length = s.wlen.toNat ∧ buildI s.par s.ns p = .ok s.txFrame

/-- R313: a run is inside the contract while fault = 0. -/
abbrev State.inContract (s : State) : Prop := s.fault = false

/-- R331: the phase is idle, so no command is outstanding (R31), and the host issues no further command. Received bytes,
arrivals and expiries may still be offered. -/
abbrev State.quiescent (s : State) : Prop := s.phase.busy = false ∧ ∀ e ∈ s.events, e.isCommand = false

/-- How many responses have been given (R301). -/
def responses (os : List Output) : Nat := os.countP fun o => match o with
  | .response _ _ => true
  | .frame _ => false
  | .transportOpen _ _ _ => false
  | .transportClose => false

/-- How many times TransportOpen has answered Ok (R323). -/
def opensOk (os : List Output) : Nat := os.countP fun o => match o with
  | .transportOpen _ _ ok => ok
  | .frame _ => false
  | .response _ _ => false
  | .transportClose => false

/-- How many times TransportClose has been called (R323). -/
def closes (os : List Output) : Nat := os.countP fun o => match o with
  | .transportClose => true
  | .frame _ => false
  | .response _ _ => false
  | .transportOpen _ _ _ => false

/-- R323: one TransportClose for each TransportOpen that answered Ok, but for the transport held now. -/
abbrev State.transportBalanced (s : State) : Prop :=
  opensOk s.outputs = closes s.outputs + (if s.topen then 1 else 0)

end Sys2Proof.Machine
end

