-- ==== Sys2Proof/Certificates/Slice0/Obligations.lean ====
section
/-! DEFINITION. The statements about the core, from the numbered rules of spec/. Frames and bytes are written out as the
rules give them; `t` is always the next state. Four fields they speak of are the model's own: `events`, the list of events the
environment offers (log 1); `port`, the command being taken with its data (log 5); `outputs`, the output events so far
(log 4); `par`, the parameters (log 6). A statement that gives a step its event through `events` rests on log 1. -/

namespace Sys2Proof.Claims

open Sys2Proof.Machine

/-- The parser holds a whole frame whose header checksum is right: address `a`, checksum `a ⊕ c` for the control byte `c`,
and `raw` between the header and the closing delimiter (R96, R97, R197). -/
abbrev HoldsFrame (s : State) (a c : Byte) (raw : List Byte) : Prop :=
  s.parser.pa = a ∧ s.parser.pbcc = a ^^^ c ∧ s.parser.raw = raw

/-- The parser after the Done step (R197). -/
abbrev idled (s : State) : Parser := { s.parser with ps := .idle }

/-- The frames a phase's consumer acts on, for each control instruction: every (phase, address, control) the consumer rules
name (R213, R218, R221, R225, R227, R242, R264), and in R_READ every information frame but one whose header is right
and whose address is not 0x03 (R262, R265, R266). -/
def Awaited (s : State) : Instr → Prop
  | .ctlSet => s.phase = .rSetup ∧ HoldsFrame s 0x03#8 0x03#8 []
  | .ctlUa => s.phase = .tSetup ∧ HoldsFrame s 0x03#8 0x07#8 [] ∨ s.phase = .rTeardownUa ∧ HoldsFrame s 0x01#8 0x07#8 []
  | .ctlDisc =>
    s.phase = .tTeardown ∧ HoldsFrame s 0x01#8 0x0B#8 [] ∨
    (s.phase = .rTeardownDisc ∨ s.phase = .rRead) ∧ HoldsFrame s 0x03#8 0x0B#8 []
  | .ctlRr0 => s.phase = .tWaitAck ∧ s.ns = 1#1 ∧ HoldsFrame s 0x03#8 0x05#8 []
  | .ctlRr1 => s.phase = .tWaitAck ∧ s.ns = 0#1 ∧ HoldsFrame s 0x03#8 0x85#8 []
  | .ctlRej0 => s.phase = .tWaitAck ∧ s.ns = 0#1 ∧ HoldsFrame s 0x03#8 0x01#8 []
  | .ctlRej1 => s.phase = .tWaitAck ∧ s.ns = 1#1 ∧ HoldsFrame s 0x03#8 0x81#8 []
  | .ctlI0 => s.phase = .rRead ∧ ¬ (s.parser.pbcc = s.parser.pa ^^^ 0x00#8 ∧ s.parser.pa ≠ 0x03#8)
  | .ctlI1 => s.phase = .rRead ∧ ¬ (s.parser.pbcc = s.parser.pa ^^^ 0x40#8 ∧ s.parser.pa ≠ 0x03#8)
  | _ => True

/-- The instruction of the information frame with sequence bit `n`, and its control byte (R93). -/
abbrev infoInstr (n : Bit) : Instr := if n = 0#1 then .ctlI0 else .ctlI1
abbrev infoCode (n : Bit) : Byte := if n = 0#1 then 0x00#8 else 0x40#8

/-- RR(n) and REJ(n) as bytes on the wire (R107). -/
abbrev rrBytes (n : Bit) : List Byte :=
  if n = 0#1 then [0x7E#8, 0x03#8, 0x05#8, 0x06#8, 0x7E#8] else [0x7E#8, 0x03#8, 0x85#8, 0x86#8, 0x7E#8]
abbrev rejBytes (n : Bit) : List Byte :=
  if n = 0#1 then [0x7E#8, 0x03#8, 0x01#8, 0x02#8, 0x7E#8] else [0x7E#8, 0x03#8, 0x81#8, 0x82#8, 0x7E#8]

/-- The response word with CODE `code` and LEN `n` (R105). -/
abbrev answer (code n : Nat) : Word := BitVec.ofNat 32 (n * 65536 + code)

/-- A command with zero side operands whose transport opens; as an event, and as an input of a core of a system. -/
abbrev plain (w : Word) (data : List Byte) : Command :=
  { word := w, data := data, timeout := 0, baud := 0, port := 0, transportOk := true }
abbrev plainCommand (w : Word) (data : List Byte) : Event := .cmd (plain w data)
abbrev plainInput (w : Word) (data : List Byte) : Input := .cmd (plain w data)

/-- Delivery in order, unchanged, both ways. -/
abbrev perfectBoth : Side → Channel := fun _ => Channel.perfect

/-- `n` bytes taken one by one. -/
abbrev reads (n : Nat) : List Event := List.replicate n .rxByte

/-- The registers no frame of the receiver touches. -/
abbrev SameOutsideReceiver (s t : State) : Prop :=
  t.par = s.par ∧ t.role = s.role ∧ t.cfgMaxRetry = s.cfgMaxRetry ∧ t.cfgTimeout = s.cfgTimeout ∧
  t.cfgBaud = s.cfgBaud ∧ t.cfgPort = s.cfgPort ∧ t.ns = s.ns ∧ t.retry = s.retry ∧ t.timerArmed = s.timerArmed ∧
  t.txbuf = s.txbuf ∧ t.txlen = s.txlen ∧ t.wlen = s.wlen ∧ t.discSeen = s.discSeen ∧ t.fault = s.fault ∧
  t.topen = s.topen ∧ t.unitbuf = s.unitbuf ∧ t.freeCount = s.freeCount

end Sys2Proof.Claims

open Sys2Proof Sys2Proof.Machine Sys2Proof.Claims

/-! ### Encoding -/

/-- Decoding inverts encoding, for every well-formed instruction and every operand (R93, R103, R104, R106). -/
def Obligations.DecodeInvertsEncode : Prop := ∀ i : Instr, WellFormed i → decode (encode i) = .ok i

/-- Only encodings decode: a control byte or a command word that decodes is the encoding of what it decodes to, so each
word has one meaning and no reserved word has any (R93, R103, R104). -/
def Obligations.DecodedWordsAreEncodings : Prop :=
  ∀ (c : Code) (i : Instr), decode c = .ok i → WellFormed i ∧ encode i = c

/-- Words the spec writes out, one of every family (R93, R108, R136, R137, R153, R154, R155). -/
def Obligations.WordsOfTheSpecDecode : Prop :=
  decodeCtrl 0x00#8 = .ok .ctlI0 ∧ decodeCtrl 0x40#8 = .ok .ctlI1 ∧ decodeCtrl 0x03#8 = .ok .ctlSet ∧
  decodeCtrl 0x85#8 = .ok .ctlRr1 ∧ decodeCtrl 0x81#8 = .ok .ctlRej1 ∧
  decodeCmd 0x00000301#32 = .ok (.hostOpen .transmitter 3) ∧ decodeCmd 0x00000011#32 = .ok (.hostOpen .receiver 0) ∧
  decodeCmd 0x00040002#32 = .ok (.hostWrite 4) ∧ decodeCmd 0x00000003#32 = .ok .hostRead ∧
  decodeCmd 0x00000004#32 = .ok .hostClose ∧ decodeCmd 0x00020008#32 = .ok (.unitStuff 2) ∧
  decodeCmd 0x00020009#32 = .ok (.unitDestuff 2) ∧ decodeCmd 0x0007030A#32 = .ok (.unitHcs 0x03#8 0x07#8) ∧
  decodeCmd 0x0004000B#32 = .ok (.unitPcs 4) ∧ decodeCmd 0x0103030C#32 = .ok (.unitHdrchk 0x03#8 0x03#8 0x01#8)

/-! ### The step -/

/-- A command word that decodes runs as its instruction, presented at the port and with its event consumed (R314, R104). The
port and the list of events are the model's own fields (log 1, log 5). -/
def Obligations.StepRunsDecodedCommand : Prop :=
  ∀ (s : State) (c : Command) (es : List Event) (i : Instr), s.events = .cmd c :: es → decodeCmd c.word = .ok i →
    step s = exec i { s with events := es, port := c }

/-- The closing delimiter of a frame runs the instruction of the captured control byte, in the same step (R193, R197, R199). -/
def Obligations.StepRunsCapturedControl : Prop :=
  ∀ (s : State) (q : List Byte) (es : List Event) (i : Instr), s.events = .rxByte :: es → s.phase.busy = true →
    s.rxQueue = 0x7E#8 :: q → s.parser.ps = .inPayload → decodeCtrl s.parser.pc = .ok i →
    step s = exec i { s with events := es, rxQueue := q, parser := { s.parser with ps := .done } }

/-- Any other received byte moves the parser by its transition function and nothing else, and removes one byte from the
transport's queue (R75, R180, R201). -/
def Obligations.StepFeedsOneByteToTheParser : Prop :=
  ∀ (s : State) (b : Byte) (q : List Byte) (es : List Event), s.events = .rxByte :: es → s.phase.busy = true →
    s.rxQueue = b :: q → s.parser.ps ≠ .done →
    (s.parser.ps = .inPayload → b ≠ 0x7E#8 ∧ ∃ i, decodeCtrl s.parser.pc = .ok i) →
    step s = .next { s with events := es, rxQueue := q, parser := (parseStep s.par s.phase s.parser b).1 }

/-- Where no event is enabled the core waits: with nothing offered nothing changes; a byte is not taken in an idle phase, nor
from an empty queue; an expiry is not taken while the timer is disarmed; arriving bytes only queue (R32, R54, R201, R314,
R325). That an offer is passed over is the model's choice (log 1, log 2). -/
def Obligations.CoreWaitsWithoutAnEnabledEvent : Prop :=
  ∀ (s : State) (es : List Event),
    (s.events = [] → step s = .next s) ∧
    (s.events = .rxByte :: es → s.phase = .closed ∨ s.phase = .opened ∨ s.phase = .broken ∨ s.rxQueue = [] →
      step s = .next { s with events := es }) ∧
    (s.events = .expiry :: es → s.timerArmed = false → step s = .next { s with events := es }) ∧
    (∀ bs, s.events = .arrive bs :: es → step s = .next { s with events := es, rxQueue := s.rxQueue ++ bs })

/-! ### Host violations -/

/-- A command word with a reserved OP, or with a nonzero bit in a field its OP does not use, sets fault and does nothing
else, in any phase (R312 a and b, R313). -/
def Obligations.UndecodableCommandsAreViolations : Prop :=
  ∀ (s : State) (c : Command) (es : List Event), s.events = .cmd c :: es →
    (let op := c.word.toNat % 16
     op ∈ [0x0, 0x5, 0x6, 0x7, 0xD, 0xE, 0xF] ∨
     op = 0x1 ∧ c.word &&& 0xFFFF00E0#32 ≠ 0#32 ∨
     op ∈ [0x2, 0x8, 0x9, 0xB] ∧ c.word &&& 0x0000FFF0#32 ≠ 0#32 ∨
     op ∈ [0x3, 0x4] ∧ c.word &&& 0xFFFFFFF0#32 ≠ 0#32 ∨
     op = 0xA ∧ c.word &&& 0xFF0000F0#32 ≠ 0#32 ∨
     op = 0xC ∧ c.word &&& 0x000000F0#32 ≠ 0#32) →
    step s = .next { s with events := es, port := c, fault := true }

/-- A decoded command that the core does not accept sets fault and does nothing else: any command in a busy phase, OPEN
outside CLOSED or as Transmitter with K = 0, WRITE and READ outside OPEN or in the wrong role, CLOSE in CLOSED, and a data
operand that has not the announced number of bytes (R312 c to h, R313). That a command without LEN announces none is the
model's reading (log 14). -/
def Obligations.UnacceptedCommandsAreViolations : Prop :=
  ∀ (i : Instr) (w : Word) (s : State), WellFormed i → encode i = .cmd w →
    (s.phase.busy = true ∨ s.port.data.length ≠ i.dataLen ∨
     (∃ r k, i = .hostOpen r k ∧ (s.phase ≠ .closed ∨ r = .transmitter ∧ k = 0)) ∨
     (∃ n, i = .hostWrite n ∧ (s.phase ≠ .opened ∨ s.role = .receiver)) ∨
     i = .hostRead ∧ (s.phase ≠ .opened ∨ s.role = .transmitter) ∨
     i = .hostClose ∧ s.phase = .closed) →
    exec i s = .next { s with fault := true }

/-- fault is sticky, and only a host command can set it (R48, R312, R313). -/
def Obligations.FaultIsStickyAndSetByCommands : Prop :=
  ∀ s t : State, step s = .next t →
    (s.fault = true → t.fault = true) ∧
    (s.fault = false → t.fault = true →
      ∃ c es, s.events = .cmd c :: es ∧ t = { s with events := es, port := c, fault := true })

/-! ### Codec, checksums and framer -/

/-- R134. -/
def Obligations.DestuffInvertsStuff : Prop :=
  ∀ (par : Params) (x y : List Byte) (c1 c2 : Nat), par.markersOk → stuff par x c1 = .ok y → x.length ≤ c2 →
    destuff par y c2 = .ok x

/-- R133. -/
def Obligations.StuffedBytesHoldNoDelimiter : Prop :=
  ∀ (par : Params) (x y : List Byte) (cap : Nat), par.markersOk → stuff par x cap = .ok y → 0x7E#8 ∉ y

/-- R135. -/
def Obligations.CodecLengthBounds : Prop :=
  ∀ (par : Params) (x y z : List Byte) (cap : Nat),
    (stuff par x cap = .ok y → x.length ≤ y.length ∧ y.length ≤ 2 * x.length ∧
      y.length = x.length + x.countP (fun b => b = 0x7E#8 || b = 0x7D#8)) ∧
    (destuff par y cap = .ok z → z.length ≤ y.length) ∧
    (2 * x.length ≤ cap → ∃ y, stuff par x cap = .ok y) ∧
    (y.length ≤ cap → ∀ j, destuff par y cap ≠ .error (.bufferExhausted j))

/-- Which error the codec's left-to-right scan raises, and with which index: after a part `pre` that scans without error, the
next byte or pair decides, and a pair's escape check comes before its capacity check (R130, R131). -/
def Obligations.CodecScanRaisesTheFirstError : Prop :=
  ∀ (par : Params) (cap : Nat) (pre out rest : List Byte) (b : Byte),
    (stuff par pre cap = .ok out → cap < out.length + (if b = 0x7E#8 ∨ b = 0x7D#8 then 2 else 1) →
      stuff par (pre ++ b :: rest) cap = .error (.bufferExhausted pre.length)) ∧
    (destuff par pre cap = .ok out →
      destuff par (pre ++ [0x7D#8]) cap = .error (.malformedEscape pre.length) ∧
      (b ≠ par.escFlagMark → b ≠ par.escEscMark →
        destuff par (pre ++ 0x7D#8 :: b :: rest) cap = .error (.malformedEscape pre.length)) ∧
      (b = par.escFlagMark ∨ b = par.escEscMark → cap < out.length + 1 →
        destuff par (pre ++ 0x7D#8 :: b :: rest) cap = .error (.bufferExhausted (pre.length + 2))) ∧
      (b ≠ 0x7D#8 → cap < out.length + 1 →
        destuff par (pre ++ b :: rest) cap = .error (.bufferExhausted (pre.length + 1))))

/-- The payload checksum's laws: it does not depend on the order of the bytes, it splits over concatenation, a payload with
its checksum folds to 0x00, and changing one byte changes it (R151, R156, R157). -/
def Obligations.PayloadChecksumLaws : Prop :=
  ∀ p q : List Byte,
    pcs (p ++ q) = pcs p ^^^ pcs q ∧ pcs (p ++ [pcs p]) = 0x00#8 ∧ pcs [] = 0x00#8 ∧
    (p.Perm q → pcs p = pcs q) ∧ ∀ a b : Byte, pcs (p ++ a :: q) = pcs (p ++ b :: q) ↔ a = b

/-- No legal header holds a reserved byte: for each address and control code the checksum lies in the set R98 lists, and
neither 0x7E nor 0x7D is in it (R91, R93, R98, R160). -/
def Obligations.HeadersHoldNoReservedByte : Prop :=
  ∀ a c : Byte, a ∈ [0x01#8, 0x03#8] → c ∈ sCtrl ++ iCtrl →
    buildS a c = [0x7E#8, a, c, a ^^^ c, 0x7E#8] ∧
    a ^^^ c ∈ [0x00#8, 0x01#8, 0x02#8, 0x03#8, 0x04#8, 0x06#8, 0x08#8, 0x0A#8, 0x41#8, 0x43#8, 0x80#8, 0x82#8, 0x84#8, 0x86#8] ∧
    ∀ b ∈ [a, c, a ^^^ c], b ≠ 0x7E#8 ∧ b ≠ 0x7D#8

/-- BuildI never fails on a payload within MAX_PAYLOAD, and its frame has R97's form: header, a region of 1 to
2·(len(p)+1) bytes with no delimiter in it that destuffs to the payload and its checksum, delimiter (R97, R161; R13's DST_CAP, R133, R134). -/
def Obligations.InfoFramesHaveTheirForm : Prop :=
  ∀ (par : Params) (s : Bit) (p : List Byte), par.ok → p.length ≤ par.maxPayload →
    ∃ d, buildI par s p = .ok ([0x7E#8, 0x03#8, infoCode s, 0x03#8 ^^^ infoCode s] ++ d ++ [0x7E#8]) ∧
      1 ≤ d.length ∧ d.length ≤ 2 * (p.length + 1) ∧ 0x7E#8 ∉ d ∧
      destuff par d par.dstCap = .ok (p ++ [p.foldl (· ^^^ ·) 0x00#8])

/-! ### The parser -/

/-- The transitions of the header slots, with the error each raises; each outputs None (R183 to R192, with R181's
control set). That the set of CLOSED, OPEN and BROKEN, where no byte is parsed, is the S class is the model's choice (log 24). -/
def Obligations.ParserHeaderTransitions : Prop :=
  ∀ (par : Params) (ph : Phase) (p : Parser) (b : Byte),
    (p.ps = .idle → parseByte par ph p b =
      if b = 0x7E#8 then { parser := { p with ps := .sawAddress }, raised := none } else { parser := p, raised := none }) ∧
    (p.ps = .sawAddress → parseByte par ph p b =
      if b = 0x7E#8 then { parser := p, raised := none }
      else if b = 0x01#8 ∨ b = 0x03#8 then { parser := { p with pa := b, ps := .sawControl }, raised := none }
      else { parser := { p with ps := .idle }, raised := some .address }) ∧
    (p.ps = .sawControl → parseByte par ph p b =
      if b = 0x7E#8 then { parser := { p with ps := .sawAddress }, raised := none }
      else if b ∈ (if ph = .rRead then [0x00#8, 0x40#8, 0x0B#8]
          else [0x03#8, 0x07#8, 0x0B#8, 0x05#8, 0x85#8, 0x01#8, 0x81#8]) then
        { parser := { p with pc := b, ps := .sawChecksum }, raised := none }
      else { parser := { p with ps := .idle }, raised := some .control }) ∧
    (p.ps = .sawChecksum → parseByte par ph p b =
      if b = 0x7E#8 then { parser := { p with ps := .sawAddress }, raised := none }
      else { parser := { p with pbcc := b, rawlen := 0, ps := .inPayload }, raised := none }) ∧
    (p.ps = .idle ∨ p.ps = .sawAddress ∨ p.ps = .sawControl ∨ p.ps = .sawChecksum →
      parseStep par ph p b = ((parseByte par ph p b).parser, .none))

/-- The transitions of the payload slot: an S-frame's extra byte, the raw buffer's overflow and buffering, each with output None
(R194 to R196), and the closing delimiter, whose step leaves Done at once with its frame as the output (R193). -/
def Obligations.ParserPayloadTransitions : Prop :=
  ∀ (par : Params) (ph : Phase) (p : Parser) (b : Byte), p.ps = .inPayload → p.rawlen ≤ par.rawCap →
    (b ≠ 0x7E#8 → p.pc ∈ [0x03#8, 0x07#8, 0x0B#8, 0x05#8, 0x85#8, 0x01#8, 0x81#8] →
      parseByte par ph p b = { parser := { p with ps := .idle }, raised := some .length }) ∧
    (b ≠ 0x7E#8 → p.pc = 0x00#8 ∨ p.pc = 0x40#8 → p.rawlen = par.rawCap →
      parseByte par ph p b = { parser := { p with ps := .idle }, raised := some .overflow }) ∧
    (b ≠ 0x7E#8 → p.pc = 0x00#8 ∨ p.pc = 0x40#8 → p.rawlen < par.rawCap →
      parseByte par ph p b =
        { parser := { p with rawbuf := Memory.write p.rawbuf p.rawlen b, rawlen := p.rawlen + 1 }, raised := none }) ∧
    (b ≠ 0x7E#8 → parseStep par ph p b = ((parseByte par ph p b).parser, .none)) ∧
    (b = 0x7E#8 → parseByte par ph p b = { parser := { p with ps := .done }, raised := none } ∧
      parseStep par ph p b = ({ p with ps := .idle },
        if p.pbcc = p.pa ^^^ p.pc then .candidate p.pa p.pc p.raw else .headerFail p.pa p.pc))

/-- Resynchronisation (R202): from Idle, SawAddress, SawControl or SawChecksum a well-formed frame gives its Candidate at its
closing delimiter and nothing before it; from InPayload its opening delimiter closes the broken frame, the rest is dropped,
and its closing delimiter leaves the parser in SawAddress. -/
def Obligations.ParserFindsEveryWellFormedFrame : Prop :=
  ∀ (par : Params) (ph : Phase) (p : Parser) (a c : Byte) (d : List Byte), a ∈ [0x01#8, 0x03#8] → c ∈ ctrlSet ph →
    (c ∈ sCtrl → d = []) → 0x7E#8 ∉ d → d.length ≤ par.rawCap → p.rawbuf.wf →
    let f := [0x7E#8, a, c, a ^^^ c] ++ d ++ [0x7E#8]
    (p.ps = .idle ∨ p.ps = .sawAddress ∨ p.ps = .sawControl ∨ p.ps = .sawChecksum →
      (parseAll par ph p f).1.ps = .idle ∧
      (parseAll par ph p f).2 = List.replicate (d.length + 4) .none ++ [.candidate a c d]) ∧
    (p.ps = .inPayload →
      (parseAll par ph p f).1.ps = .sawAddress ∧
      (parseAll par ph p f).2 = frameOut p.pc p :: List.replicate (d.length + 4) .none)

/-! ### The connection manager -/

/-- OPEN as Transmitter, accepted, with the transport open: the configuration is latched, the connection initialised, SET sent
and the timer armed (R210, R212). -/
def Obligations.OpenTransmitterSendsSet : Prop :=
  ∀ (s : State) (k : Nat), 1 ≤ k → k < 256 → s.phase = .closed → s.port.data = [] → s.port.transportOk = true →
    exec (.hostOpen .transmitter k) s = .next { s with
      role := .transmitter, cfgMaxRetry := BitVec.ofNat 8 k, cfgTimeout := s.port.timeout, cfgBaud := s.port.baud,
      cfgPort := s.port.port, ns := 0#1, nr := 0#1, retry := 0#8, discSeen := false,
      parser := { s.parser with ps := .idle, rawlen := 0 }, topen := true, timerArmed := true, phase := .tSetup,
      outputs := s.outputs ++ [.transportOpen s.port.port s.port.baud true,
        .frame [0x7E#8, 0x03#8, 0x03#8, 0x00#8, 0x7E#8]] }

/-- OPEN as Receiver, accepted for every K, with the transport open: nothing is sent and no timer armed (R210, R217). That
retry is cleared in this role too is the model's reading (log 20). -/
def Obligations.OpenReceiverWaitsForSet : Prop :=
  ∀ (s : State) (k : Nat), k < 256 → s.phase = .closed → s.port.data = [] → s.port.transportOk = true →
    exec (.hostOpen .receiver k) s = .next { s with
      role := .receiver, cfgMaxRetry := BitVec.ofNat 8 k, cfgTimeout := s.port.timeout, cfgBaud := s.port.baud,
      cfgPort := s.port.port, ns := 0#1, nr := 0#1, retry := 0#8, discSeen := false,
      parser := { s.parser with ps := .idle, rawlen := 0 }, topen := true, phase := .rSetup,
      outputs := s.outputs ++ [.transportOpen s.port.port s.port.baud true] }

/-- OPEN, accepted, when TransportOpen answers Error: CONNECTION_FAILED, nothing sent, phase CLOSED (R211). That
retry is cleared in role Receiver too is the model's reading (log 20). -/
def Obligations.OpenFailsWithTheTransport : Prop :=
  ∀ (s : State) (r : Role) (k : Nat), k < 256 → (r = .transmitter → 1 ≤ k) → s.phase = .closed → s.port.data = [] →
    s.port.transportOk = false →
    exec (.hostOpen r k) s = .next { s with
      role := r, cfgMaxRetry := BitVec.ofNat 8 k, cfgTimeout := s.port.timeout, cfgBaud := s.port.baud,
      cfgPort := s.port.port, ns := 0#1, nr := 0#1, retry := 0#8, discSeen := false,
      parser := { s.parser with ps := .idle, rawlen := 0 }, topen := false, phase := .closed,
      outputs := s.outputs ++ [.transportOpen s.port.port s.port.baud false, .response (answer 1 0) []] }

/-- R213. -/
def Obligations.UaCompletesTransmitterSetup : Prop :=
  ∀ s : State, s.phase = .tSetup → HoldsFrame s 0x03#8 0x07#8 [] →
    exec .ctlUa s = .next { s with
      parser := idled s, timerArmed := false, ns := 0#1, phase := .opened,
      outputs := s.outputs ++ [.response (answer 0 0) []] }

/-- R218. -/
def Obligations.SetCompletesReceiverSetup : Prop :=
  ∀ s : State, s.phase = .rSetup → HoldsFrame s 0x03#8 0x03#8 [] →
    exec .ctlSet s = .next { s with
      parser := idled s, nr := 0#1, phase := .opened,
      outputs := s.outputs ++ [.frame [0x7E#8, 0x03#8, 0x07#8, 0x04#8, 0x7E#8], .response (answer 0 0) []] }

/-- R221, R225 and R264: DISC in the three phases that wait for it. -/
def Obligations.DiscIsTakenWhereAwaited : Prop :=
  ∀ s : State,
    (s.phase = .tTeardown → HoldsFrame s 0x01#8 0x0B#8 [] → exec .ctlDisc s = .next { s with
      parser := idled s, topen := false, phase := .closed,
      outputs := s.outputs ++ [.frame [0x7E#8, 0x01#8, 0x07#8, 0x06#8, 0x7E#8], .transportClose,
        .response (answer 0 0) []] }) ∧
    (s.phase = .rTeardownDisc → HoldsFrame s 0x03#8 0x0B#8 [] → exec .ctlDisc s = .next { s with
      parser := idled s, phase := .rTeardownUa,
      outputs := s.outputs ++ [.frame [0x7E#8, 0x01#8, 0x0B#8, 0x0A#8, 0x7E#8]] }) ∧
    (s.phase = .rRead → HoldsFrame s 0x03#8 0x0B#8 [] → exec .ctlDisc s = .next { s with
      parser := idled s, discSeen := true, phase := .opened,
      outputs := s.outputs ++ [.response (answer 3 0) []] })

/-- R227. -/
def Obligations.UaCompletesReceiverTeardown : Prop :=
  ∀ s : State, s.phase = .rTeardownUa → HoldsFrame s 0x01#8 0x07#8 [] →
    exec .ctlUa s = .next { s with
      parser := idled s, topen := false, phase := .closed,
      outputs := s.outputs ++ [.transportClose, .response (answer 0 0) []] }

/-- R220, R223, R224 and R229: CLOSE in each phase and role that accepts it. -/
def Obligations.CloseBeginsOrEndsTeardown : Prop :=
  ∀ s : State, s.port.data = [] →
    (s.phase = .opened → s.role = .transmitter → exec .hostClose s = .next { s with
      parser := idled s, phase := .tTeardown,
      outputs := s.outputs ++ [.frame [0x7E#8, 0x03#8, 0x0B#8, 0x08#8, 0x7E#8]] }) ∧
    (s.phase = .opened → s.role = .receiver → s.discSeen = false → exec .hostClose s = .next { s with
      parser := idled s, phase := .rTeardownDisc }) ∧
    (s.phase = .opened → s.role = .receiver → s.discSeen = true → exec .hostClose s = .next { s with
      parser := idled s, phase := .rTeardownUa,
      outputs := s.outputs ++ [.frame [0x7E#8, 0x01#8, 0x0B#8, 0x0A#8, 0x7E#8]] }) ∧
    (s.phase = .broken → exec .hostClose s = .next { s with
      topen := false, phase := .closed,
      outputs := s.outputs ++ [.transportClose, .response (answer 7 0) []] })

/-- R214 and R215: an expiry in T_SETUP. -/
def Obligations.SetupExpiryResendsOrFails : Prop :=
  ∀ (s : State) (es : List Event), s.events = .expiry :: es → s.timerArmed = true → s.phase = .tSetup →
    (s.retry.toNat + 1 < s.cfgMaxRetry.toNat → step s = .next { s with
      events := es, retry := BitVec.ofNat 8 (s.retry.toNat + 1), parser := idled s,
      outputs := s.outputs ++ [.frame [0x7E#8, 0x03#8, 0x03#8, 0x00#8, 0x7E#8]] }) ∧
    (s.retry.toNat + 1 = s.cfgMaxRetry.toNat → step s = .next { s with
      events := es, retry := s.cfgMaxRetry, parser := idled s, timerArmed := false, topen := false, phase := .closed,
      outputs := s.outputs ++ [.transportClose, .response (answer 1 0) []] })

/-- Every frame a phase does not wait for is dropped: the parser returns to Idle and nothing else changes, so the timer keeps
running (R199, R216, R219, R222, R226, R228, R248, R263, R265). That an S-frame with a raw part and an I-control outside
R_READ, which no run gives and no consumer rule names, are dropped too is the model's reading (log 21). -/
def Obligations.UnexpectedFramesAreIgnored : Prop :=
  ∀ (i : Instr) (c : Byte) (s : State), encode i = .ctrl c → ¬ Awaited s i → exec i s = .next { s with parser := idled s }

/-! ### The ARQ transmitter -/

/-- WRITE with LEN above MAX_PAYLOAD: BUFFER_EXHAUSTED, nothing sent, nothing else changed (R240). -/
def Obligations.LongWriteIsRefused : Prop :=
  ∀ (s : State) (len : Nat), s.phase = .opened → s.role = .transmitter → s.port.data.length = len →
    s.par.maxPayload < len →
    exec (.hostWrite len) s = .next { s with outputs := s.outputs ++ [.response (answer 5 0) []] }

/-- WRITE within MAX_PAYLOAD: the frame BuildI gives for ns and the payload is stored in txbuf, sent, and the timer armed; a
retransmission would send these same bytes (R241, R45, R85). -/
def Obligations.WriteStoresAndSendsItsFrame : Prop :=
  ∀ (s : State) (len : Nat), s.par.ok → s.txbuf.wf → s.phase = .opened → s.role = .transmitter →
    s.port.data.length = len → len ≤ s.par.maxPayload →
    ∃ f t, buildI s.par s.ns s.port.data = .ok f ∧ t.txFrame = f ∧ exec (.hostWrite len) s = .next t ∧
      t = { s with
        txbuf := Memory.writeAll s.txbuf 0 f, txlen := f.length, wlen := BitVec.ofNat 16 len, retry := 0#8,
        parser := idled s, timerArmed := true, phase := .tWaitAck, outputs := s.outputs ++ [.frame f] }

/-- R242's accept and R244: RR1 while ns = 0, RR0 while ns = 1. -/
def Obligations.AcceptCompletesWrite : Prop :=
  ∀ s : State, s.phase = .tWaitAck →
    (s.ns = 0#1 → HoldsFrame s 0x03#8 0x85#8 [] → exec .ctlRr1 s = .next { s with
      parser := idled s, timerArmed := false, ns := 1#1, phase := .opened,
      outputs := s.outputs ++ [.response (answer 0 s.wlen.toNat) []] }) ∧
    (s.ns = 1#1 → HoldsFrame s 0x03#8 0x05#8 [] → exec .ctlRr0 s = .next { s with
      parser := idled s, timerArmed := false, ns := 0#1, phase := .opened,
      outputs := s.outputs ++ [.response (answer 0 s.wlen.toNat) []] })

/-- R242's reject and R245: REJ0 while ns = 0, REJ1 while ns = 1. -/
def Obligations.RejectRetransmits : Prop :=
  ∀ s : State, s.phase = .tWaitAck →
    (s.ns = 0#1 → HoldsFrame s 0x03#8 0x01#8 [] → exec .ctlRej0 s = .next { s with
      parser := idled s, timerArmed := true, outputs := s.outputs ++ [.frame s.txFrame] }) ∧
    (s.ns = 1#1 → HoldsFrame s 0x03#8 0x81#8 [] → exec .ctlRej1 s = .next { s with
      parser := idled s, timerArmed := true, outputs := s.outputs ++ [.frame s.txFrame] })

/-- R246 and R247: an expiry in T_WAIT_ACK. -/
def Obligations.AckExpiryResendsOrBreaks : Prop :=
  ∀ (s : State) (es : List Event), s.events = .expiry :: es → s.timerArmed = true → s.phase = .tWaitAck →
    (s.retry.toNat + 1 < s.cfgMaxRetry.toNat → step s = .next { s with
      events := es, retry := BitVec.ofNat 8 (s.retry.toNat + 1), parser := idled s,
      outputs := s.outputs ++ [.frame s.txFrame] }) ∧
    (s.retry.toNat + 1 = s.cfgMaxRetry.toNat → step s = .next { s with
      events := es, retry := s.cfgMaxRetry, parser := idled s, timerArmed := false, phase := .broken,
      outputs := s.outputs ++ [.frame [0x7E#8, 0x03#8, 0x0B#8, 0x08#8, 0x7E#8], .response (answer 2 0) []] })

/-- While a WRITE is outstanding no step changes the held frame (R243) or the payload length (R46), and every frame a step sends
is that frame (R246), but for the DISC of a step that breaks the connection (R247); ns changes only with an accept
(R244). -/
def Obligations.OutstandingWriteKeepsItsFrame : Prop :=
  ∀ s t : State, s.phase = .tWaitAck → step s = .next t →
    t.txbuf = s.txbuf ∧ t.txlen = s.txlen ∧ t.wlen = s.wlen ∧
    (t.ns = s.ns ∧ (t.phase = .tWaitAck ∨ t.phase = .broken) ∨ t.ns = s.ns ^^^ 1#1 ∧ t.phase = .opened) ∧
    ∃ os, t.outputs = s.outputs ++ os ∧ ∀ f, .frame f ∈ os →
      f = s.txFrame ∨ t.phase = .broken ∧ f = [0x7E#8, 0x03#8, 0x0B#8, 0x08#8, 0x7E#8]

/-- Retry exhaustion (R249 b, and R215 for OPEN): when only expiries come, the frame is sent again k − 1 times and the command
ends at the k-th expiry; ns is unchanged. -/
def Obligations.CommandsFailAtTheKthTimeout : Prop :=
  ∀ (s : State) (es : List Event), s.timerArmed = true → s.retry = 0#8 → 1 ≤ s.cfgMaxRetry.toNat →
    s.events = List.replicate s.cfgMaxRetry.toNat .expiry ++ es →
    (s.phase = .tWaitAck → Host.Core.run Sys2Proof.core s.cfgMaxRetry.toNat s = .next { s with
      events := es, retry := s.cfgMaxRetry, parser := idled s, timerArmed := false, phase := .broken,
      outputs := s.outputs ++ List.replicate (s.cfgMaxRetry.toNat - 1) (.frame s.txFrame) ++
        [.frame [0x7E#8, 0x03#8, 0x0B#8, 0x08#8, 0x7E#8], .response (answer 2 0) []] }) ∧
    (s.phase = .tSetup → Host.Core.run Sys2Proof.core s.cfgMaxRetry.toNat s = .next { s with
      events := es, retry := s.cfgMaxRetry, parser := idled s, timerArmed := false, topen := false, phase := .closed,
      outputs := s.outputs ++
        List.replicate (s.cfgMaxRetry.toNat - 1) (.frame [0x7E#8, 0x03#8, 0x03#8, 0x00#8, 0x7E#8]) ++
        [.transportClose, .response (answer 1 0) []] })

/-! ### The ARQ receiver -/

/-- READ, accepted (R260). -/
def Obligations.ReadBeginsWaiting : Prop :=
  ∀ s : State, s.phase = .opened → s.role = .receiver → s.port.data = [] →
    exec .hostRead s = .next { s with parser := { s.parser with ps := .idle, rawlen := 0 }, phase := .rRead }

/-- R270: an information frame whose region destuffs to a payload and its checksum, with the expected sequence bit. -/
def Obligations.NewFrameIsDelivered : Prop :=
  ∀ (s : State) (raw p : List Byte), s.par.ok → s.phase = .rRead → HoldsFrame s 0x03#8 (infoCode s.nr) raw →
    destuff s.par raw (s.par.maxPayload + 1) = .ok (p ++ [pcs p]) →
    exec (infoInstr s.nr) s = .next { s with
      parser := idled s, dstbuf := Memory.writeAll s.dstbuf 0 (p ++ [pcs p]), nr := s.nr ^^^ 1#1, phase := .opened,
      outputs := s.outputs ++ [.frame (rrBytes (s.nr ^^^ 1#1)), .response (answer 0 p.length) p] }

/-- R271: the same frame with the other sequence bit is a duplicate. -/
def Obligations.DuplicateIsAcknowledgedAgain : Prop :=
  ∀ (s : State) (raw p : List Byte), s.phase = .rRead → HoldsFrame s 0x03#8 (infoCode (s.nr ^^^ 1#1)) raw →
    destuff s.par raw (s.par.maxPayload + 1) = .ok (p ++ [pcs p]) →
    exec (infoInstr (s.nr ^^^ 1#1)) s = .next { s with
      parser := idled s, dstbuf := Memory.writeAll s.dstbuf 0 (p ++ [pcs p]),
      outputs := s.outputs ++ [.frame (rrBytes s.nr)] }

/-- The failed checks on an information frame draw REJ(nr) and READ goes on: the header checksum at any address (R262), a bad
escape (R266), an empty region (R268), the payload checksum (R269). That a failed destuff leaves dstbuf as it was is the model's choice
(log 10). -/
def Obligations.BadInfoFramesDrawRej : Prop :=
  ∀ (s : State) (n : Bit) (raw : List Byte), s.phase = .rRead →
    (s.parser.pbcc ≠ s.parser.pa ^^^ infoCode n → exec (infoInstr n) s = .next { s with
      parser := idled s, outputs := s.outputs ++ [.frame (rejBytes s.nr)] }) ∧
    (HoldsFrame s 0x03#8 (infoCode n) raw →
      (∀ j, destuff s.par raw (s.par.maxPayload + 1) = .error (.malformedEscape j) → exec (infoInstr n) s = .next { s with
        parser := idled s, outputs := s.outputs ++ [.frame (rejBytes s.nr)] }) ∧
      (destuff s.par raw (s.par.maxPayload + 1) = .ok [] → exec (infoInstr n) s = .next { s with
        parser := idled s, outputs := s.outputs ++ [.frame (rejBytes s.nr)] }) ∧
      (∀ p q, destuff s.par raw (s.par.maxPayload + 1) = .ok (p ++ [q]) → pcs p ≠ q → exec (infoInstr n) s = .next { s with
        parser := idled s, dstbuf := Memory.writeAll s.dstbuf 0 (p ++ [q]),
        outputs := s.outputs ++ [.frame (rejBytes s.nr)] }))

/-- R266 and R267: a region that overflows. That the failed destuff leaves dstbuf as it was is the model's choice (log 10). -/
def Obligations.OversizedFrameEndsRead : Prop :=
  ∀ (s : State) (n : Bit) (raw : List Byte) (j : Nat), s.phase = .rRead → HoldsFrame s 0x03#8 (infoCode n) raw →
    destuff s.par raw (s.par.maxPayload + 1) = .error (.bufferExhausted j) →
    exec (infoInstr n) s = .next { s with
      parser := idled s, phase := .opened, outputs := s.outputs ++ [.response (answer 4 0) []] }

/-- A payload sent is the payload read: a receiver waiting in R_READ that is given, byte by byte, the frame BuildI makes of its
expected sequence bit and any payload within MAX_PAYLOAD ends its READ with exactly that payload, toggles nr and sends RR
with the new value; the rest of the core is unchanged (R97, R134, R202, R270). -/
def Obligations.FramedPayloadIsDelivered : Prop :=
  ∀ (s : State) (p f q : List Byte) (es : List Event), s.par.ok → p.length ≤ s.par.maxPayload → s.phase = .rRead →
    s.parser.ps = .idle ∨ s.parser.ps = .sawAddress → s.parser.rawbuf.wf → buildI s.par s.nr p = .ok f →
    s.rxQueue = f ++ q → s.events = reads f.length ++ es →
    ∃ t, Host.Core.run Sys2Proof.core f.length s = .next t ∧ t.phase = .opened ∧ t.nr = s.nr ^^^ 1#1 ∧
      t.parser.ps = .idle ∧ t.rxQueue = q ∧ t.events = es ∧ t.port = s.port ∧ SameOutsideReceiver s t ∧
      t.outputs = s.outputs ++ [.frame (rrBytes (s.nr ^^^ 1#1)), .response (answer 0 p.length) p]

/-- Duplicate suppression (R272): the same frame twice, with a READ before each. The payload is delivered once, RR is sent both
times, and nr toggles once. -/
def Obligations.DuplicateIsDeliveredOnce : Prop :=
  ∀ (s : State) (p f q : List Byte) (es : List Event), s.par.ok → p.length ≤ s.par.maxPayload → s.phase = .rRead →
    s.role = .receiver → s.parser.ps = .idle → s.parser.rawbuf.wf → buildI s.par s.nr p = .ok f →
    s.rxQueue = f ++ f ++ q → s.events = reads f.length ++ [plainCommand 0x00000003#32 []] ++ reads f.length ++ es →
    ∃ t, Host.Core.run Sys2Proof.core (f.length + 1 + f.length) s = .next t ∧ t.phase = .rRead ∧
      t.nr = s.nr ^^^ 1#1 ∧ t.rxQueue = q ∧ t.events = es ∧ SameOutsideReceiver s t ∧
      t.outputs = s.outputs ++ [.frame (rrBytes (s.nr ^^^ 1#1)), .response (answer 0 p.length) p,
        .frame (rrBytes (s.nr ^^^ 1#1))]

/-! ### Unit commands -/

/-- STUFF and DESTUFF answer what the codec gives, with its errors as result codes, and change no core register (R136, R137).
For an output longer than 65535 bytes the LEN field is a free value (log 15): the word is then whatever `respLen`
reads. That a failed run leaves unitbuf as it was, and a success leaves what lies beyond its output, is the model's choice
(log 10). -/
def Obligations.CodecCommandsAnswer : Prop :=
  ∀ (s : State) (len : Nat), s.phase.busy = false → s.port.data.length = len →
    (∀ out, stuff s.par s.port.data s.par.unitCap = .ok out → exec (.unitStuff len) s = .next { s with
      unitbuf := Memory.writeAll s.unitbuf 0 out, freeCount := s.respFree out.length,
      outputs := s.outputs ++ [.response (s.respLen out.length ++ 0#16) out] }) ∧
    (∀ j, stuff s.par s.port.data s.par.unitCap = .error (.bufferExhausted j) → exec (.unitStuff len) s = .next { s with
      outputs := s.outputs ++ [.response (answer 5 0) []] }) ∧
    (∀ out, destuff s.par s.port.data s.par.unitCap = .ok out → exec (.unitDestuff len) s = .next { s with
      unitbuf := Memory.writeAll s.unitbuf 0 out, freeCount := s.respFree out.length,
      outputs := s.outputs ++ [.response (s.respLen out.length ++ 0#16) out] }) ∧
    (∀ j, destuff s.par s.port.data s.par.unitCap = .error (.malformedEscape j) → exec (.unitDestuff len) s = .next { s with
      outputs := s.outputs ++ [.response (answer 6 0) []] }) ∧
    (∀ j, destuff s.par s.port.data s.par.unitCap = .error (.bufferExhausted j) → exec (.unitDestuff len) s = .next { s with
      outputs := s.outputs ++ [.response (answer 5 0) []] }) ∧
    (∀ n, n < 65536 → s.respLen n = BitVec.ofNat 16 n ∧ s.respFree n = s.freeCount)

/-- HCS, PCS and HDRCHK answer one byte and change no core register (R153, R154, R155). -/
def Obligations.ChecksumCommandsAnswer : Prop :=
  ∀ (s : State) (a c bcc : Byte), s.phase.busy = false →
    (s.port.data = [] → exec (.unitHcs a c) s = .next { s with
      outputs := s.outputs ++ [.response (answer 0 1) [a ^^^ c]] }) ∧
    (exec (.unitPcs s.port.data.length) s = .next { s with
      outputs := s.outputs ++ [.response (answer 0 1) [s.port.data.foldl (· ^^^ ·) 0x00#8]] }) ∧
    (s.port.data = [] → exec (.unitHdrchk a c bcc) s = .next { s with
      outputs := s.outputs ++ [.response (answer 0 1) [if bcc = a ^^^ c then 0x01#8 else 0x00#8]] })

/-! ### Reset and the whole machine -/

/-- After power-on reset, whatever the parameters: the values R56 gives, and STATUS reads phase 0, ps 0, every flag
0 and its reserved bits 0. The other registers' reset values are the model's choice (log 7) and are not part of this. The core has then sent nothing
(the model's own `outputs`, log 4). -/
def Obligations.ResetLeavesTheCoreClosed : Prop :=
  ∀ par : Params, let s := State.resetWith par
    s.phase = .closed ∧ s.parser.ps = .idle ∧ s.timerArmed = false ∧ s.discSeen = false ∧ s.fault = false ∧
    s.topen = false ∧ s.parser.rawlen = 0 ∧ s.txlen = 0 ∧ s.outputs = [] ∧
    s.statusWord &&& 0xFF00FF8F#32 = 0#32

/-- The status port (R53): STATUS's fields at their bits, with the phase and position numbers of R30 and R42 and the role
numbers of R33, its reserved bits 0, and the other registers. -/
def Obligations.StatusPortLayout : Prop :=
  ∀ (s : State) (n : Nat), 5 ≤ n →
    let w := s.statusWord
    (∀ c ∈ [(Phase.closed, 0#4), (.tSetup, 1#4), (.rSetup, 2#4), (.opened, 3#4), (.tWaitAck, 4#4), (.rRead, 5#4),
        (.tTeardown, 6#4), (.rTeardownDisc, 7#4), (.rTeardownUa, 8#4), (.broken, 9#4)],
      s.phase = c.1 → w.extractLsb' 0 4 = c.2) ∧
    w.extractLsb' 4 1 = (if s.role = .transmitter then 0#1 else 1#1) ∧ w.extractLsb' 5 1 = s.ns ∧
    w.extractLsb' 6 1 = s.nr ∧ w.getLsbD 7 = s.timerArmed ∧ w.getLsbD 8 = s.discSeen ∧ w.getLsbD 9 = s.fault ∧
    w.getLsbD 10 = s.topen ∧
    (∀ c ∈ [(Pos.idle, 0#3), (.sawAddress, 1#3), (.sawControl, 2#3), (.sawChecksum, 3#3), (.inPayload, 4#3), (.done, 5#3)],
      s.parser.ps = c.1 → w.extractLsb' 11 3 = c.2) ∧
    w.extractLsb' 14 2 = 0#2 ∧ w.extractLsb' 16 8 = s.retry ∧ w.extractLsb' 24 8 = 0#8 ∧
    s.statusPort 0 = w.toNat ∧ s.statusPort 1 = s.cfgMaxRetry.toNat ∧ s.statusPort 2 = s.cfgTimeout ∧
    s.statusPort 3 = s.cfgBaud ∧ s.statusPort 4 = s.cfgPort ∧ s.statusPort n = 0

/-- The invariant holds after reset, for all parameters that keep R13's constraints and for the model's own (log 6). -/
def Obligations.ResetIsSound : Prop := (∀ par : Params, par.ok → (State.resetWith par).Inv) ∧ State.reset.Inv

/-- Every step keeps the invariant: legal phase, role and timer, a retry budget not used up, buffers canonical and within their
capacities, a transport held exactly while not CLOSED, the held frame the one BuildI gives (R39 to R49, R71, R72, R198,
R243). -/
def Obligations.StepKeepsInvariant : Prop := ∀ s t : State, s.Inv → step s = .next t → t.Inv

/-- A core in a sound state never stops: every step answers a next state, whatever the environment offers (R311, R314). -/
def Obligations.SoundStatesNeverStop : Prop := ∀ s : State, s.Inv → ∃ t, step s = .next t

/-- R36: role and the configuration registers are written only by an accepted OPEN, which CLOSED alone accepts; and no step
writes the parameters (R343). -/
def Obligations.ConfigurationIsWrittenByOpenOnly : Prop :=
  ∀ s t : State, step s = .next t →
    t.par = s.par ∧
    (t.role = s.role ∧ t.cfgMaxRetry = s.cfgMaxRetry ∧ t.cfgTimeout = s.cfgTimeout ∧ t.cfgBaud = s.cfgBaud ∧
      t.cfgPort = s.cfgPort ∨
     ∃ c es r k, s.events = .cmd c :: es ∧ decodeCmd c.word = .ok (.hostOpen r k) ∧ s.phase = .closed ∧
      t.role = r ∧ t.cfgMaxRetry = BitVec.ofNat 8 k ∧ t.cfgTimeout = c.timeout ∧ t.cfgBaud = c.baud ∧ t.cfgPort = c.port)

/-- Who writes the sequence bits (R37, R38). ns is set to 0 by OPEN and by the UA that completes setup, and toggled by an accept
only; nr is set to 0 by OPEN and by the SET that completes setup, and toggled only by an information frame with the
expected sequence bit whose region holds a payload and its checksum. -/
def Obligations.SequenceBitsAreWrittenAsStated : Prop :=
  ∀ s t : State, step s = .next t →
    let opens := ∃ c es r k, s.events = .cmd c :: es ∧ decodeCmd c.word = .ok (.hostOpen r k) ∧ s.phase = .closed
    let took := fun (ph : Phase) (c : Byte) => s.phase = ph ∧ s.parser.pc = c ∧ t.phase = .opened
    (t.ns = s.ns ∨ t.ns = 0#1 ∧ opens ∨ t.ns = 0#1 ∧ took .tSetup 0x07#8 ∨
      t.ns = s.ns ^^^ 1#1 ∧ took .tWaitAck (if s.ns = 0#1 then 0x85#8 else 0x05#8)) ∧
    (t.nr = s.nr ∨ t.nr = 0#1 ∧ opens ∨ t.nr = 0#1 ∧ took .rSetup 0x03#8 ∨
      t.nr = s.nr ^^^ 1#1 ∧ took .rRead (infoCode s.nr) ∧
        ∃ p, destuff s.par s.parser.raw (s.par.maxPayload + 1) = .ok (p ++ [pcs p]))

/-- Who writes retry (R40): an OPEN taken in CLOSED or a WRITE that begins to wait sets it to 0, and each expiry of T_SETUP or
T_WAIT_ACK adds 1; nothing else writes it, a REJ in particular. That OPEN clears it in role Receiver too is the model's
reading (log 20). -/
def Obligations.RetryCountsElapsedTimeouts : Prop :=
  ∀ s t : State, step s = .next t →
    t.retry = s.retry ∨
    (∃ c es, s.events = .cmd c :: es ∧ t.retry = 0#8 ∧
      ((∃ r k, decodeCmd c.word = .ok (.hostOpen r k) ∧ s.phase = .closed) ∨
       (∃ n, decodeCmd c.word = .ok (.hostWrite n) ∧ s.phase = .opened ∧ t.phase = .tWaitAck))) ∨
    (∃ es, s.events = .expiry :: es ∧ (s.phase = .tSetup ∨ s.phase = .tWaitAck) ∧
      t.retry.toNat = s.retry.toNat + 1 ∧ t.retry.toNat ≤ s.cfgMaxRetry.toNat)

/-- Every command gets one response, in the step that ends it (R301, R31): a step that leaves a busy phase for an idle one
responds once, and a step that stays in or enters a busy phase does not respond. A step from an idle phase to an idle
phase responds once if it takes a command and not at all otherwise, but for a host violation, which gets no response and
only sets fault (R313). -/
def Obligations.EachCommandGetsOneResponse : Prop :=
  ∀ s t : State, step s = .next t →
    (t.phase.busy = true → responses t.outputs = responses s.outputs) ∧
    (s.phase.busy = true → t.phase.busy = false → responses t.outputs = responses s.outputs + 1) ∧
    (s.phase.busy = false → t.phase.busy = false →
      (∀ c es, s.events = .cmd c :: es →
        responses t.outputs = responses s.outputs + 1 ∨ t = { s with events := es, port := c, fault := true }) ∧
      ((∀ c es, s.events ≠ .cmd c :: es) → responses t.outputs = responses s.outputs))

/-- Outputs are only appended: no step takes back or reorders a frame or a response (R17, R81). -/
def Obligations.OutputsAreOnlyAppended : Prop :=
  ∀ s t : State, step s = .next t → ∃ os, t.outputs = s.outputs ++ os

/-- R323: TransportClose is called exactly once for each TransportOpen that answered Ok. -/
def Obligations.TransportIsClosedOncePerOpen : Prop :=
  ∀ s t : State, s.Inv → s.transportBalanced → step s = .next t → t.transportBalanced

/-! ### Two cores -/

/-- Setup over a perfect channel (R231, R326): a Receiver and a Transmitter that are CLOSED, with nothing in flight, exchange
SET@03 and UA@03 and both reach OPEN with ns = nr = 0. -/
def Obligations.TwoCoresConnect : Prop :=
  ∀ (y : System) (k : Nat), 1 ≤ k → k < 256 → y.a.phase = .closed → y.b.phase = .closed → y.a.rxQueue = [] →
    y.b.rxQueue = [] → y.settled perfectBoth →
    let moves := [.offer .b (plainInput 0x00000011#32 []), .offer .a (plainInput (BitVec.ofNat 32 (k * 256 + 1)) [])] ++
      relay .a .b [0x7E#8, 0x03#8, 0x03#8, 0x00#8, 0x7E#8] ++ relay .b .a [0x7E#8, 0x03#8, 0x07#8, 0x04#8, 0x7E#8]
    y.conforms perfectBoth moves ∧
    ∃ y', System.run moves y = .next y' ∧ y'.settled perfectBoth ∧ y'.a.phase = .opened ∧ y'.b.phase = .opened ∧
      y'.a.role = .transmitter ∧ y'.b.role = .receiver ∧ y'.a.ns = 0#1 ∧ y'.b.nr = 0#1 ∧
      y'.a.rxQueue = [] ∧ y'.b.rxQueue = []

/-- Transfer over a perfect channel (R81, R134, R244, R270; 95 property 7): with both cores OPEN and in step, a WRITE of any payload
within MAX_PAYLOAD and a READ exchange one frame and one RR; READ answers exactly the payload, WRITE answers its length,
and both sequence bits toggle. -/
def Obligations.PayloadCrossesAPerfectChannel : Prop :=
  ∀ (y : System) (p f : List Byte), y.a.par = y.b.par → y.a.par.ok → p.length ≤ y.a.par.maxPayload →
    y.a.phase = .opened → y.b.phase = .opened → y.a.role = .transmitter → y.b.role = .receiver → y.a.ns = y.b.nr →
    y.a.rxQueue = [] → y.b.rxQueue = [] → y.b.parser.rawbuf.wf →
    y.settled perfectBoth → buildI y.a.par y.a.ns p = .ok f →
    let moves := [.offer .b (plainInput 0x00000003#32 []),
        .offer .a (plainInput (BitVec.ofNat 32 (p.length * 65536 + 2)) p)] ++
      relay .a .b f ++ relay .b .a (rrBytes (y.a.ns ^^^ 1#1))
    y.conforms perfectBoth moves ∧
    ∃ y', System.run moves y = .next y' ∧ y'.settled perfectBoth ∧ y'.a.phase = .opened ∧ y'.b.phase = .opened ∧
      y'.a.ns = y.a.ns ^^^ 1#1 ∧ y'.b.nr = y.b.nr ^^^ 1#1 ∧
      y'.a.outputs = y.a.outputs ++ [.frame f, .response (answer 0 p.length) []] ∧
      y'.b.outputs = y.b.outputs ++ [.frame (rrBytes (y.a.ns ^^^ 1#1)), .response (answer 0 p.length) p]

/-- Teardown over a perfect channel (R231): with both cores OPEN, the two CLOSE commands exchange DISC@03, DISC@01 and UA@01, and
both cores reach CLOSED with the transport closed. -/
def Obligations.TwoCoresDisconnect : Prop :=
  ∀ y : System, y.a.phase = .opened → y.b.phase = .opened → y.a.role = .transmitter → y.b.role = .receiver →
    y.b.discSeen = false → y.a.rxQueue = [] → y.b.rxQueue = [] →
    y.settled perfectBoth →
    let moves := [.offer .b (plainInput 0x00000004#32 []), .offer .a (plainInput 0x00000004#32 [])] ++
      relay .a .b [0x7E#8, 0x03#8, 0x0B#8, 0x08#8, 0x7E#8] ++ relay .b .a [0x7E#8, 0x01#8, 0x0B#8, 0x0A#8, 0x7E#8] ++
      relay .a .b [0x7E#8, 0x01#8, 0x07#8, 0x06#8, 0x7E#8]
    y.conforms perfectBoth moves ∧
    ∃ y', System.run moves y = .next y' ∧ y'.settled perfectBoth ∧ y'.a.phase = .closed ∧ y'.b.phase = .closed ∧
      y'.a.topen = false ∧ y'.b.topen = false
end

