-- ==== Sys2Proof/Laws/Codec.lean ====
section
/-! SUPPORT. The codec's scans as equations, one per case of R130 and R131, and stuff's whole result in one lemma. -/

namespace Sys2Proof.Laws

open Sys2Proof.Machine

variable {par : Params} {cap i n : Nat}

@[simp] theorem prepend_ok (a b : List Byte) : prepend a (.ok b) = .ok (a ++ b) := rfl

@[simp] theorem prepend_error (a : List Byte) (e : CodecError) : prepend a (.error e) = .error e := rfl

theorem prepend_eq_ok {a y : List Byte} {r : Except CodecError (List Byte)} :
    prepend a r = .ok y ↔ ∃ out, r = .ok out ∧ y = a ++ out := by
  cases r <;> simp [eq_comm]

@[simp] theorem stuffFrom_nil : stuffFrom par cap i n [] = .ok [] := rfl

theorem stuffPiece_length_pos (b : Byte) : 1 ≤ (stuffPiece par b).length := by
  unfold stuffPiece; split_ifs <;> simp

/-- A scan that starts within the capacity gives the concatenated pieces when they fit it, and otherwise
BufferExhausted at some index. -/
theorem stuffFrom_eq (hn : n ≤ cap) (x : List Byte) :
    (n + (x.flatMap (stuffPiece par)).length ≤ cap ∧ stuffFrom par cap i n x = .ok (x.flatMap (stuffPiece par))) ∨
    (cap < n + (x.flatMap (stuffPiece par)).length ∧ ∃ j, stuffFrom par cap i n x = .error (.bufferExhausted j)) := by
  induction x generalizing i n with
  | nil => exact .inl ⟨by simpa using hn, rfl⟩
  | cons b x ih =>
    simp only [List.flatMap_cons, List.length_append]
    rw [stuffFrom]
    by_cases hb : cap < n + (stuffPiece par b).length
    · exact .inr ⟨by omega, i, by rw [if_pos hb]⟩
    · rw [if_neg hb]
      rcases ih (i := i + 1) (n := n + (stuffPiece par b).length) (by omega) with ⟨h, e⟩ | ⟨h, j, e⟩
      · exact .inl ⟨by omega, by rw [e]; rfl⟩
      · exact .inr ⟨by omega, j, by rw [e]; rfl⟩

/-- `stuff(x, cap)` in one line: the concatenated pieces, exactly when they fit the capacity. -/
theorem stuff_ok_iff {x y : List Byte} :
    stuff par x cap = .ok y ↔ y = x.flatMap (stuffPiece par) ∧ y.length ≤ cap := by
  rcases stuffFrom_eq (par := par) (i := 0) (Nat.zero_le cap) x with ⟨h, e⟩ | ⟨h, j, e⟩
  · rw [stuff, e]
    constructor
    · rintro ⟨⟩; exact ⟨rfl, by omega⟩
    · rintro ⟨rfl, -⟩; rfl
  · rw [stuff, e]
    constructor
    · rintro ⟨⟩
    · rintro ⟨rfl, h'⟩; omega

@[simp] theorem destuffFrom_nil : destuffFrom par cap i n [] = .ok [] := rfl

@[simp] theorem destuffFrom_truncated : destuffFrom par cap i n [escByte] = .error (.malformedEscape i) := rfl

theorem destuffFrom_badMarker {m : Byte} {y : List Byte} (h : unescape par m = none) :
    destuffFrom par cap i n (escByte :: m :: y) = .error (.malformedEscape i) := by
  rw [destuffFrom.eq_def]; simp [h]

theorem destuffFrom_pair {m d : Byte} {y : List Byte} (h : unescape par m = some d) :
    destuffFrom par cap i n (escByte :: m :: y) =
      if cap < n + 1 then .error (.bufferExhausted (i + 2))
      else prepend [d] (destuffFrom par cap (i + 2) (n + 1) y) := by
  rw [destuffFrom.eq_def]; simp [h]

theorem destuffFrom_plain {b : Byte} {y : List Byte} (h : b ≠ escByte) :
    destuffFrom par cap i n (b :: y) =
      if cap < n + 1 then .error (.bufferExhausted (i + 1))
      else prepend [b] (destuffFrom par cap (i + 1) (n + 1) y) := by
  rw [destuffFrom.eq_def]; simp [h]

/-- The output of a destuff fits its capacity. -/
theorem destuffFrom_length (hn : n ≤ cap) {y out : List Byte} (h : destuffFrom par cap i n y = .ok out) :
    n + out.length ≤ cap := by
  induction hy : y.length using Nat.strong_induction_on generalizing y i n out with
  | _ k ih =>
    subst hy
    cases y with
    | nil => cases h; simpa using hn
    | cons b y =>
      by_cases hb : b = escByte
      · subst hb
        cases y with
        | nil => cases h
        | cons m y =>
          cases hm : unescape par m with
          | none => rw [destuffFrom_badMarker hm] at h; cases h
          | some d =>
            rw [destuffFrom_pair hm] at h
            split at h
            · cases h
            · obtain ⟨o, e, rfl⟩ := prepend_eq_ok.mp h
              have := ih y.length (by simp only [List.length_cons]; omega) (by omega) e rfl
              simp only [List.length_append, List.length_singleton]; omega
      · rw [destuffFrom_plain hb] at h
        split at h
        · cases h
        · obtain ⟨o, e, rfl⟩ := prepend_eq_ok.mp h
          have := ih y.length (by simp) (by omega) e rfl
          simp only [List.length_append, List.length_singleton]; omega

theorem destuff_length {y out : List Byte} (h : destuff par y cap = .ok out) : out.length ≤ cap := by
  have := destuffFrom_length (Nat.zero_le cap) h
  omega

/-- A frame that BuildI gives is the information frame around the stuffed body, and fits TXBUF_CAP. -/
theorem buildI_ok_iff {s : Bit} {p f : List Byte} :
    buildI par s p = .ok f ↔
      ∃ d, stuff par (infoBody p) (par.txbufCap - 5) = .ok d ∧ f = infoFrame s d := by
  unfold buildI
  split
  · rename_i d e
    constructor
    · rintro ⟨⟩; exact ⟨d, e, rfl⟩
    · rintro ⟨d', e', rfl⟩; rw [e] at e'; cases e'; rfl
  · rename_i e h
    constructor
    · rintro ⟨⟩
    · rintro ⟨d', e', -⟩; rw [h] at e'; cases e'

theorem infoFrame_length (s : Bit) (d : List Byte) : (infoFrame s d).length = d.length + 5 := by
  simp [infoFrame]

theorem buildI_length {s : Bit} {p f : List Byte} (h : buildI par s p = .ok f) : f.length ≤ par.txbufCap := by
  obtain ⟨d, hd, rfl⟩ := buildI_ok_iff.mp h
  obtain ⟨rfl, hl⟩ := stuff_ok_iff.mp hd
  have : 1 ≤ ((infoBody p).flatMap (stuffPiece par)).length := by
    have : infoBody p = p ++ [pcs p] := rfl
    rw [this, List.flatMap_append, List.length_append, List.flatMap_singleton]
    have := stuffPiece_length_pos (par := par) (pcs p)
    omega
  rw [infoFrame_length]
  omega

end Sys2Proof.Laws
end

