-- ==== Sys2Proof/Laws/Decode.lean ====
section
/-! SUPPORT. The fields of a command word built from its fields, and the decoders' case lemmas (R93, R103, R106). -/

namespace Sys2Proof.Laws

variable (hi : Half) (b1 : Byte) (role : Bit) (op : BitVec 4)

@[simp] theorem fieldOp_cmdWord : fieldOp (cmdWord hi b1 role op) = op := by
  ext i h; simp [fieldOp, cmdWord]; grind

@[simp] theorem fieldRole_cmdWord : fieldRole (cmdWord hi b1 role op) = role := by
  ext i h; simp [fieldRole, cmdWord]; grind

@[simp] theorem fieldRsv_cmdWord : fieldRsv (cmdWord hi b1 role op) = 0#3 := by
  ext i h; simp [fieldRsv, cmdWord]; grind

@[simp] theorem fieldB1_cmdWord : fieldB1 (cmdWord hi b1 role op) = b1 := by
  ext i h; simp [fieldB1, cmdWord]; grind

@[simp] theorem fieldLen_cmdWord : fieldLen (cmdWord hi b1 role op) = hi := by
  ext i h; simp [fieldLen, cmdWord]; grind

@[simp] theorem fieldB2_cmdWord (u l : Byte) : fieldB2 (cmdWord (u ++ l) b1 role op) = l := by
  ext i h; simp [fieldB2, cmdWord]; grind

@[simp] theorem fieldB3_cmdWord (u l : Byte) : fieldB3 (cmdWord (u ++ l) b1 role op) = u := by
  ext i h; simp [fieldB3, cmdWord]; grind

/-- A command word is its fields, once the reserved one is 0. -/
theorem cmdWord_fields (w : Word) (h : fieldRsv w = 0#3) :
    cmdWord (fieldLen w) (fieldB1 w) (fieldRole w) (fieldOp w) = w := by
  rw [cmdWord, ← h]
  ext i hi; simp [fieldLen, fieldB1, fieldRole, fieldOp, fieldRsv]; grind

/-- The upper half of a word is its two upper bytes. -/
theorem fieldLen_bytes (w : Word) : fieldB3 w ++ fieldB2 w = fieldLen w := by
  ext i hi; simp [fieldLen, fieldB2, fieldB3]; grind

/-- The word of a LEN command as a number (R103). -/
theorem lenWord_ofNat (len : Nat) (op : BitVec 4) : lenWord len op = BitVec.ofNat 32 (len * 65536 + op.toNat) := by
  have h := op.isLt
  apply BitVec.eq_of_toNat_eq
  rw [lenWord, cmdWord]
  simp only [BitVec.toNat_append, BitVec.toNat_ofNat, Nat.shiftLeft_eq]
  simp only [Nat.zero_mod, Nat.or_zero]
  rw [show len % 2 ^ 16 * 2 ^ 8 * 2 ^ 3 * 2 ^ 1 * 2 ^ 4 = (len % 2 ^ 16 * 2 ^ 12) <<< 4 by rw [Nat.shiftLeft_eq]; ring,
    ← Nat.shiftLeft_add_eq_or_of_lt h, Nat.shiftLeft_eq]
  omega

/-- The word of an OPEN as a number (R103). -/
theorem openWord_ofNat (k : Nat) (r : Role) :
    cmdWord 0#16 (BitVec.ofNat 8 k) r.code 0x1#4 = BitVec.ofNat 32 (k % 256 * 256 + r.code.toNat * 16 + 1) := by
  apply BitVec.eq_of_toNat_eq
  have hr : r.code.toNat < 2 ^ 1 := r.code.isLt
  rw [cmdWord]
  simp only [BitVec.toNat_append, BitVec.toNat_ofNat, Nat.shiftLeft_eq, Nat.zero_mod, Nat.zero_mul, Nat.zero_or, Nat.or_zero]
  rw [← Nat.shiftLeft_eq (k % 2 ^ 8 * 2 ^ 3) 1, ← Nat.shiftLeft_add_eq_or_of_lt hr,
    ← Nat.shiftLeft_eq _ 4, ← Nat.shiftLeft_add_eq_or_of_lt (by decide)]
  simp only [Nat.shiftLeft_eq]
  omega

@[simp] theorem roleOf_code (r : Role) : roleOf r.code = r := by cases r <;> rfl

@[simp] theorem code_roleOf (b : Bit) : (roleOf b).code = b := by
  revert b; decide

/-- The control byte's decoder, by cases: the nine rows of R93. -/
theorem decodeCtrl_cases {b : Byte} {i : Instr} (h : decodeCtrl b = .ok i) :
    (b = codeI0 ∧ i = .ctlI0) ∨ (b = codeI1 ∧ i = .ctlI1) ∨ (b = codeSet ∧ i = .ctlSet) ∨
    (b = codeUa ∧ i = .ctlUa) ∨ (b = codeDisc ∧ i = .ctlDisc) ∨ (b = codeRr0 ∧ i = .ctlRr0) ∨
    (b = codeRr1 ∧ i = .ctlRr1) ∨ (b = codeRej0 ∧ i = .ctlRej0) ∨ (b = codeRej1 ∧ i = .ctlRej1) := by
  unfold decodeCtrl at h
  split_ifs at h <;> cases h <;> simp_all

/-- Exactly the nine codes decode. -/
theorem decodeCtrl_ok_iff (b : Byte) : (∃ i, decodeCtrl b = .ok i) ↔ b ∈ sCtrl ++ iCtrl := by
  simp only [decodeCtrl, sCtrl, iCtrl, List.cons_append, List.nil_append, List.mem_cons, List.not_mem_nil, or_false]
  constructor
  · rintro ⟨i, h⟩
    split_ifs at h <;> simp_all
  · intro h
    split_ifs <;> simp_all

theorem whenUnusedZero_ok {z : Bool} {w : Word} {i j : Instr} :
    whenUnusedZero z w i = .ok j ↔ z = true ∧ j = i := by
  unfold whenUnusedZero
  split_ifs with h <;> simp [h, eq_comm]

/-- A command word never decodes to a control code's instruction (R104). -/
theorem decodeCmd_ne_ctrl {w : Word} {i : Instr} (h : decodeCmd w = .ok i) (b : Byte) : encode i ≠ .ctrl b := by
  intro hb
  simp only [decodeCmd] at h
  split_ifs at h <;> simp only [whenUnusedZero_ok, reduceCtorEq] at h
  all_goals obtain ⟨-, rfl⟩ := h
  all_goals simp [encode] at hb

end Sys2Proof.Laws
end

