-- ==== Sys2Proof/Laws/Operands.lean ====
section
/-! SUPPORT. The acceptance tests of the commands, and the test a consumer makes on a frame, as propositions (R199, R210, R312). -/

namespace Sys2Proof.Laws

open Sys2Proof.Machine

theorem hasLength_iff (l : List Byte) (n : Nat) : hasLength l n = true ↔ l.length = n := by
  induction l generalizing n with
  | nil => cases n <;> simp [hasLength]
  | cons b l ih => cases n <;> simp [hasLength, ih]

/-- The data operand has exactly the announced bytes (R312 h). -/
@[simp] theorem dataFits_iff (s : State) (n : Nat) : s.dataFits n = true ↔ s.port.data.length = n :=
  hasLength_iff s.port.data n

/-- When a unit command is accepted (R312 c, h). -/
@[simp] theorem acceptsUnit_iff (s : State) (n : Nat) :
    s.acceptsUnit n = true ↔ s.phase.busy = false ∧ s.port.data.length = n := by
  simp [State.acceptsUnit]

/-- When OPEN is accepted (R210, R312 c, d, h). -/
@[simp] theorem openAccepted_iff (role : Role) (k : Byte) (s : State) :
    openAccepted role k s = true ↔ s.phase = .closed ∧ (role = .receiver ∨ k ≠ 0#8) ∧ s.port.data.length = 0 := by
  simp [openAccepted, and_assoc]

/-- The frame a consumer takes: its header checksum is right, its address is `a`, and it has no raw part (R197, R199). -/
@[simp] theorem takes_iff (s : State) (a c : Byte) :
    s.takes a c = true ↔ s.parser.pbcc = hcs s.parser.pa c ∧ s.parser.pa = a ∧ s.parser.raw = [] := by
  unfold State.takes frameOut
  split_ifs with h <;> simp [h]

end Sys2Proof.Laws
end

