-- ==== Sys2Proof/Laws/State.lean ====
section
/-! SUPPORT. What each named operation over State does to each field, one lemma a field, so that no later proof unfolds a
record update. -/

namespace Sys2Proof.Laws

open Sys2Proof.Machine

/-! ### emit -/

@[simp] theorem emit_par (s : State) (o : Output) : (s.emit o).par = s.par := rfl
@[simp] theorem emit_phase (s : State) (o : Output) : (s.emit o).phase = s.phase := rfl
@[simp] theorem emit_role (s : State) (o : Output) : (s.emit o).role = s.role := rfl
@[simp] theorem emit_cfgMaxRetry (s : State) (o : Output) : (s.emit o).cfgMaxRetry = s.cfgMaxRetry := rfl
@[simp] theorem emit_cfgTimeout (s : State) (o : Output) : (s.emit o).cfgTimeout = s.cfgTimeout := rfl
@[simp] theorem emit_cfgBaud (s : State) (o : Output) : (s.emit o).cfgBaud = s.cfgBaud := rfl
@[simp] theorem emit_cfgPort (s : State) (o : Output) : (s.emit o).cfgPort = s.cfgPort := rfl
@[simp] theorem emit_ns (s : State) (o : Output) : (s.emit o).ns = s.ns := rfl
@[simp] theorem emit_nr (s : State) (o : Output) : (s.emit o).nr = s.nr := rfl
@[simp] theorem emit_retry (s : State) (o : Output) : (s.emit o).retry = s.retry := rfl
@[simp] theorem emit_timerArmed (s : State) (o : Output) : (s.emit o).timerArmed = s.timerArmed := rfl
@[simp] theorem emit_parser (s : State) (o : Output) : (s.emit o).parser = s.parser := rfl
@[simp] theorem emit_dstbuf (s : State) (o : Output) : (s.emit o).dstbuf = s.dstbuf := rfl
@[simp] theorem emit_txbuf (s : State) (o : Output) : (s.emit o).txbuf = s.txbuf := rfl
@[simp] theorem emit_txlen (s : State) (o : Output) : (s.emit o).txlen = s.txlen := rfl
@[simp] theorem emit_wlen (s : State) (o : Output) : (s.emit o).wlen = s.wlen := rfl
@[simp] theorem emit_discSeen (s : State) (o : Output) : (s.emit o).discSeen = s.discSeen := rfl
@[simp] theorem emit_fault (s : State) (o : Output) : (s.emit o).fault = s.fault := rfl
@[simp] theorem emit_topen (s : State) (o : Output) : (s.emit o).topen = s.topen := rfl
@[simp] theorem emit_unitbuf (s : State) (o : Output) : (s.emit o).unitbuf = s.unitbuf := rfl
@[simp] theorem emit_port (s : State) (o : Output) : (s.emit o).port = s.port := rfl
@[simp] theorem emit_rxQueue (s : State) (o : Output) : (s.emit o).rxQueue = s.rxQueue := rfl
@[simp] theorem emit_events (s : State) (o : Output) : (s.emit o).events = s.events := rfl
@[simp] theorem emit_outputs (s : State) (o : Output) : (s.emit o).outputs = s.outputs ++ [o] := rfl
@[simp] theorem emit_freeCount (s : State) (o : Output) : (s.emit o).freeCount = s.freeCount := rfl

/-! ### txSend -/

@[simp] theorem txSend_par (f : List Byte) (s : State) : (txSend f s).par = s.par := rfl
@[simp] theorem txSend_phase (f : List Byte) (s : State) : (txSend f s).phase = s.phase := rfl
@[simp] theorem txSend_role (f : List Byte) (s : State) : (txSend f s).role = s.role := rfl
@[simp] theorem txSend_cfgMaxRetry (f : List Byte) (s : State) : (txSend f s).cfgMaxRetry = s.cfgMaxRetry := rfl
@[simp] theorem txSend_cfgTimeout (f : List Byte) (s : State) : (txSend f s).cfgTimeout = s.cfgTimeout := rfl
@[simp] theorem txSend_cfgBaud (f : List Byte) (s : State) : (txSend f s).cfgBaud = s.cfgBaud := rfl
@[simp] theorem txSend_cfgPort (f : List Byte) (s : State) : (txSend f s).cfgPort = s.cfgPort := rfl
@[simp] theorem txSend_ns (f : List Byte) (s : State) : (txSend f s).ns = s.ns := rfl
@[simp] theorem txSend_nr (f : List Byte) (s : State) : (txSend f s).nr = s.nr := rfl
@[simp] theorem txSend_retry (f : List Byte) (s : State) : (txSend f s).retry = s.retry := rfl
@[simp] theorem txSend_timerArmed (f : List Byte) (s : State) : (txSend f s).timerArmed = s.timerArmed := rfl
@[simp] theorem txSend_parser (f : List Byte) (s : State) : (txSend f s).parser = s.parser := rfl
@[simp] theorem txSend_dstbuf (f : List Byte) (s : State) : (txSend f s).dstbuf = s.dstbuf := rfl
@[simp] theorem txSend_txbuf (f : List Byte) (s : State) : (txSend f s).txbuf = s.txbuf := rfl
@[simp] theorem txSend_txlen (f : List Byte) (s : State) : (txSend f s).txlen = s.txlen := rfl
@[simp] theorem txSend_wlen (f : List Byte) (s : State) : (txSend f s).wlen = s.wlen := rfl
@[simp] theorem txSend_discSeen (f : List Byte) (s : State) : (txSend f s).discSeen = s.discSeen := rfl
@[simp] theorem txSend_fault (f : List Byte) (s : State) : (txSend f s).fault = s.fault := rfl
@[simp] theorem txSend_topen (f : List Byte) (s : State) : (txSend f s).topen = s.topen := rfl
@[simp] theorem txSend_unitbuf (f : List Byte) (s : State) : (txSend f s).unitbuf = s.unitbuf := rfl
@[simp] theorem txSend_port (f : List Byte) (s : State) : (txSend f s).port = s.port := rfl
@[simp] theorem txSend_rxQueue (f : List Byte) (s : State) : (txSend f s).rxQueue = s.rxQueue := rfl
@[simp] theorem txSend_events (f : List Byte) (s : State) : (txSend f s).events = s.events := rfl
@[simp] theorem txSend_outputs (f : List Byte) (s : State) : (txSend f s).outputs = s.outputs ++ [.frame f] := rfl
@[simp] theorem txSend_freeCount (f : List Byte) (s : State) : (txSend f s).freeCount = s.freeCount := rfl

/-! ### respond -/

@[simp] theorem respond_par (c : ResultCode) (n : Nat) (d : List Byte) (s : State) : (respond c n d s).par = s.par := rfl
@[simp] theorem respond_phase (c : ResultCode) (n : Nat) (d : List Byte) (s : State) : (respond c n d s).phase = s.phase := rfl
@[simp] theorem respond_role (c : ResultCode) (n : Nat) (d : List Byte) (s : State) : (respond c n d s).role = s.role := rfl
@[simp] theorem respond_cfgMaxRetry (c : ResultCode) (n : Nat) (d : List Byte) (s : State) : (respond c n d s).cfgMaxRetry = s.cfgMaxRetry := rfl
@[simp] theorem respond_cfgTimeout (c : ResultCode) (n : Nat) (d : List Byte) (s : State) : (respond c n d s).cfgTimeout = s.cfgTimeout := rfl
@[simp] theorem respond_cfgBaud (c : ResultCode) (n : Nat) (d : List Byte) (s : State) : (respond c n d s).cfgBaud = s.cfgBaud := rfl
@[simp] theorem respond_cfgPort (c : ResultCode) (n : Nat) (d : List Byte) (s : State) : (respond c n d s).cfgPort = s.cfgPort := rfl
@[simp] theorem respond_ns (c : ResultCode) (n : Nat) (d : List Byte) (s : State) : (respond c n d s).ns = s.ns := rfl
@[simp] theorem respond_nr (c : ResultCode) (n : Nat) (d : List Byte) (s : State) : (respond c n d s).nr = s.nr := rfl
@[simp] theorem respond_retry (c : ResultCode) (n : Nat) (d : List Byte) (s : State) : (respond c n d s).retry = s.retry := rfl
@[simp] theorem respond_timerArmed (c : ResultCode) (n : Nat) (d : List Byte) (s : State) : (respond c n d s).timerArmed = s.timerArmed := rfl
@[simp] theorem respond_parser (c : ResultCode) (n : Nat) (d : List Byte) (s : State) : (respond c n d s).parser = s.parser := rfl
@[simp] theorem respond_dstbuf (c : ResultCode) (n : Nat) (d : List Byte) (s : State) : (respond c n d s).dstbuf = s.dstbuf := rfl
@[simp] theorem respond_txbuf (c : ResultCode) (n : Nat) (d : List Byte) (s : State) : (respond c n d s).txbuf = s.txbuf := rfl
@[simp] theorem respond_txlen (c : ResultCode) (n : Nat) (d : List Byte) (s : State) : (respond c n d s).txlen = s.txlen := rfl
@[simp] theorem respond_wlen (c : ResultCode) (n : Nat) (d : List Byte) (s : State) : (respond c n d s).wlen = s.wlen := rfl
@[simp] theorem respond_discSeen (c : ResultCode) (n : Nat) (d : List Byte) (s : State) : (respond c n d s).discSeen = s.discSeen := rfl
@[simp] theorem respond_fault (c : ResultCode) (n : Nat) (d : List Byte) (s : State) : (respond c n d s).fault = s.fault := rfl
@[simp] theorem respond_topen (c : ResultCode) (n : Nat) (d : List Byte) (s : State) : (respond c n d s).topen = s.topen := rfl
@[simp] theorem respond_unitbuf (c : ResultCode) (n : Nat) (d : List Byte) (s : State) : (respond c n d s).unitbuf = s.unitbuf := rfl
@[simp] theorem respond_port (c : ResultCode) (n : Nat) (d : List Byte) (s : State) : (respond c n d s).port = s.port := rfl
@[simp] theorem respond_rxQueue (c : ResultCode) (n : Nat) (d : List Byte) (s : State) : (respond c n d s).rxQueue = s.rxQueue := rfl
@[simp] theorem respond_events (c : ResultCode) (n : Nat) (d : List Byte) (s : State) : (respond c n d s).events = s.events := rfl
@[simp] theorem respond_outputs (c : ResultCode) (n : Nat) (d : List Byte) (s : State) : (respond c n d s).outputs = s.outputs ++ [.response (respWord (s.respLen n) c) d] := rfl
@[simp] theorem respond_freeCount (c : ResultCode) (n : Nat) (d : List Byte) (s : State) : (respond c n d s).freeCount = s.respFree n := rfl

/-! ### transportOpen -/

@[simp] theorem transportOpen_par (s : State) : (Machine.transportOpen s).par = s.par := rfl
@[simp] theorem transportOpen_phase (s : State) : (Machine.transportOpen s).phase = s.phase := rfl
@[simp] theorem transportOpen_role (s : State) : (Machine.transportOpen s).role = s.role := rfl
@[simp] theorem transportOpen_cfgMaxRetry (s : State) : (Machine.transportOpen s).cfgMaxRetry = s.cfgMaxRetry := rfl
@[simp] theorem transportOpen_cfgTimeout (s : State) : (Machine.transportOpen s).cfgTimeout = s.cfgTimeout := rfl
@[simp] theorem transportOpen_cfgBaud (s : State) : (Machine.transportOpen s).cfgBaud = s.cfgBaud := rfl
@[simp] theorem transportOpen_cfgPort (s : State) : (Machine.transportOpen s).cfgPort = s.cfgPort := rfl
@[simp] theorem transportOpen_ns (s : State) : (Machine.transportOpen s).ns = s.ns := rfl
@[simp] theorem transportOpen_nr (s : State) : (Machine.transportOpen s).nr = s.nr := rfl
@[simp] theorem transportOpen_retry (s : State) : (Machine.transportOpen s).retry = s.retry := rfl
@[simp] theorem transportOpen_timerArmed (s : State) : (Machine.transportOpen s).timerArmed = s.timerArmed := rfl
@[simp] theorem transportOpen_parser (s : State) : (Machine.transportOpen s).parser = s.parser := rfl
@[simp] theorem transportOpen_dstbuf (s : State) : (Machine.transportOpen s).dstbuf = s.dstbuf := rfl
@[simp] theorem transportOpen_txbuf (s : State) : (Machine.transportOpen s).txbuf = s.txbuf := rfl
@[simp] theorem transportOpen_txlen (s : State) : (Machine.transportOpen s).txlen = s.txlen := rfl
@[simp] theorem transportOpen_wlen (s : State) : (Machine.transportOpen s).wlen = s.wlen := rfl
@[simp] theorem transportOpen_discSeen (s : State) : (Machine.transportOpen s).discSeen = s.discSeen := rfl
@[simp] theorem transportOpen_fault (s : State) : (Machine.transportOpen s).fault = s.fault := rfl
@[simp] theorem transportOpen_topen (s : State) : (Machine.transportOpen s).topen = s.topen := rfl
@[simp] theorem transportOpen_unitbuf (s : State) : (Machine.transportOpen s).unitbuf = s.unitbuf := rfl
@[simp] theorem transportOpen_port (s : State) : (Machine.transportOpen s).port = s.port := rfl
@[simp] theorem transportOpen_rxQueue (s : State) : (Machine.transportOpen s).rxQueue = s.rxQueue := rfl
@[simp] theorem transportOpen_events (s : State) : (Machine.transportOpen s).events = s.events := rfl
@[simp] theorem transportOpen_outputs (s : State) : (Machine.transportOpen s).outputs = s.outputs ++ [.transportOpen s.cfgPort s.cfgBaud s.port.transportOk] := rfl
@[simp] theorem transportOpen_freeCount (s : State) : (Machine.transportOpen s).freeCount = s.freeCount := rfl

/-! ### transportClose -/

@[simp] theorem transportClose_par (s : State) : (Machine.transportClose s).par = s.par := rfl
@[simp] theorem transportClose_phase (s : State) : (Machine.transportClose s).phase = s.phase := rfl
@[simp] theorem transportClose_role (s : State) : (Machine.transportClose s).role = s.role := rfl
@[simp] theorem transportClose_cfgMaxRetry (s : State) : (Machine.transportClose s).cfgMaxRetry = s.cfgMaxRetry := rfl
@[simp] theorem transportClose_cfgTimeout (s : State) : (Machine.transportClose s).cfgTimeout = s.cfgTimeout := rfl
@[simp] theorem transportClose_cfgBaud (s : State) : (Machine.transportClose s).cfgBaud = s.cfgBaud := rfl
@[simp] theorem transportClose_cfgPort (s : State) : (Machine.transportClose s).cfgPort = s.cfgPort := rfl
@[simp] theorem transportClose_ns (s : State) : (Machine.transportClose s).ns = s.ns := rfl
@[simp] theorem transportClose_nr (s : State) : (Machine.transportClose s).nr = s.nr := rfl
@[simp] theorem transportClose_retry (s : State) : (Machine.transportClose s).retry = s.retry := rfl
@[simp] theorem transportClose_timerArmed (s : State) : (Machine.transportClose s).timerArmed = s.timerArmed := rfl
@[simp] theorem transportClose_parser (s : State) : (Machine.transportClose s).parser = s.parser := rfl
@[simp] theorem transportClose_dstbuf (s : State) : (Machine.transportClose s).dstbuf = s.dstbuf := rfl
@[simp] theorem transportClose_txbuf (s : State) : (Machine.transportClose s).txbuf = s.txbuf := rfl
@[simp] theorem transportClose_txlen (s : State) : (Machine.transportClose s).txlen = s.txlen := rfl
@[simp] theorem transportClose_wlen (s : State) : (Machine.transportClose s).wlen = s.wlen := rfl
@[simp] theorem transportClose_discSeen (s : State) : (Machine.transportClose s).discSeen = s.discSeen := rfl
@[simp] theorem transportClose_fault (s : State) : (Machine.transportClose s).fault = s.fault := rfl
@[simp] theorem transportClose_topen (s : State) : (Machine.transportClose s).topen = false := rfl
@[simp] theorem transportClose_unitbuf (s : State) : (Machine.transportClose s).unitbuf = s.unitbuf := rfl
@[simp] theorem transportClose_port (s : State) : (Machine.transportClose s).port = s.port := rfl
@[simp] theorem transportClose_rxQueue (s : State) : (Machine.transportClose s).rxQueue = s.rxQueue := rfl
@[simp] theorem transportClose_events (s : State) : (Machine.transportClose s).events = s.events := rfl
@[simp] theorem transportClose_outputs (s : State) : (Machine.transportClose s).outputs = s.outputs ++ [.transportClose] := rfl
@[simp] theorem transportClose_freeCount (s : State) : (Machine.transportClose s).freeCount = s.freeCount := rfl

/-! ### armTimer -/

@[simp] theorem armTimer_par (s : State) : (armTimer s).par = s.par := rfl
@[simp] theorem armTimer_phase (s : State) : (armTimer s).phase = s.phase := rfl
@[simp] theorem armTimer_role (s : State) : (armTimer s).role = s.role := rfl
@[simp] theorem armTimer_cfgMaxRetry (s : State) : (armTimer s).cfgMaxRetry = s.cfgMaxRetry := rfl
@[simp] theorem armTimer_cfgTimeout (s : State) : (armTimer s).cfgTimeout = s.cfgTimeout := rfl
@[simp] theorem armTimer_cfgBaud (s : State) : (armTimer s).cfgBaud = s.cfgBaud := rfl
@[simp] theorem armTimer_cfgPort (s : State) : (armTimer s).cfgPort = s.cfgPort := rfl
@[simp] theorem armTimer_ns (s : State) : (armTimer s).ns = s.ns := rfl
@[simp] theorem armTimer_nr (s : State) : (armTimer s).nr = s.nr := rfl
@[simp] theorem armTimer_retry (s : State) : (armTimer s).retry = s.retry := rfl
@[simp] theorem armTimer_timerArmed (s : State) : (armTimer s).timerArmed = true := rfl
@[simp] theorem armTimer_parser (s : State) : (armTimer s).parser = s.parser := rfl
@[simp] theorem armTimer_dstbuf (s : State) : (armTimer s).dstbuf = s.dstbuf := rfl
@[simp] theorem armTimer_txbuf (s : State) : (armTimer s).txbuf = s.txbuf := rfl
@[simp] theorem armTimer_txlen (s : State) : (armTimer s).txlen = s.txlen := rfl
@[simp] theorem armTimer_wlen (s : State) : (armTimer s).wlen = s.wlen := rfl
@[simp] theorem armTimer_discSeen (s : State) : (armTimer s).discSeen = s.discSeen := rfl
@[simp] theorem armTimer_fault (s : State) : (armTimer s).fault = s.fault := rfl
@[simp] theorem armTimer_topen (s : State) : (armTimer s).topen = s.topen := rfl
@[simp] theorem armTimer_unitbuf (s : State) : (armTimer s).unitbuf = s.unitbuf := rfl
@[simp] theorem armTimer_port (s : State) : (armTimer s).port = s.port := rfl
@[simp] theorem armTimer_rxQueue (s : State) : (armTimer s).rxQueue = s.rxQueue := rfl
@[simp] theorem armTimer_events (s : State) : (armTimer s).events = s.events := rfl
@[simp] theorem armTimer_outputs (s : State) : (armTimer s).outputs = s.outputs := rfl
@[simp] theorem armTimer_freeCount (s : State) : (armTimer s).freeCount = s.freeCount := rfl

/-! ### disarmTimer -/

@[simp] theorem disarmTimer_par (s : State) : (disarmTimer s).par = s.par := rfl
@[simp] theorem disarmTimer_phase (s : State) : (disarmTimer s).phase = s.phase := rfl
@[simp] theorem disarmTimer_role (s : State) : (disarmTimer s).role = s.role := rfl
@[simp] theorem disarmTimer_cfgMaxRetry (s : State) : (disarmTimer s).cfgMaxRetry = s.cfgMaxRetry := rfl
@[simp] theorem disarmTimer_cfgTimeout (s : State) : (disarmTimer s).cfgTimeout = s.cfgTimeout := rfl
@[simp] theorem disarmTimer_cfgBaud (s : State) : (disarmTimer s).cfgBaud = s.cfgBaud := rfl
@[simp] theorem disarmTimer_cfgPort (s : State) : (disarmTimer s).cfgPort = s.cfgPort := rfl
@[simp] theorem disarmTimer_ns (s : State) : (disarmTimer s).ns = s.ns := rfl
@[simp] theorem disarmTimer_nr (s : State) : (disarmTimer s).nr = s.nr := rfl
@[simp] theorem disarmTimer_retry (s : State) : (disarmTimer s).retry = s.retry := rfl
@[simp] theorem disarmTimer_timerArmed (s : State) : (disarmTimer s).timerArmed = false := rfl
@[simp] theorem disarmTimer_parser (s : State) : (disarmTimer s).parser = s.parser := rfl
@[simp] theorem disarmTimer_dstbuf (s : State) : (disarmTimer s).dstbuf = s.dstbuf := rfl
@[simp] theorem disarmTimer_txbuf (s : State) : (disarmTimer s).txbuf = s.txbuf := rfl
@[simp] theorem disarmTimer_txlen (s : State) : (disarmTimer s).txlen = s.txlen := rfl
@[simp] theorem disarmTimer_wlen (s : State) : (disarmTimer s).wlen = s.wlen := rfl
@[simp] theorem disarmTimer_discSeen (s : State) : (disarmTimer s).discSeen = s.discSeen := rfl
@[simp] theorem disarmTimer_fault (s : State) : (disarmTimer s).fault = s.fault := rfl
@[simp] theorem disarmTimer_topen (s : State) : (disarmTimer s).topen = s.topen := rfl
@[simp] theorem disarmTimer_unitbuf (s : State) : (disarmTimer s).unitbuf = s.unitbuf := rfl
@[simp] theorem disarmTimer_port (s : State) : (disarmTimer s).port = s.port := rfl
@[simp] theorem disarmTimer_rxQueue (s : State) : (disarmTimer s).rxQueue = s.rxQueue := rfl
@[simp] theorem disarmTimer_events (s : State) : (disarmTimer s).events = s.events := rfl
@[simp] theorem disarmTimer_outputs (s : State) : (disarmTimer s).outputs = s.outputs := rfl
@[simp] theorem disarmTimer_freeCount (s : State) : (disarmTimer s).freeCount = s.freeCount := rfl

/-! ### idleParser -/

@[simp] theorem idleParser_par (s : State) : (idleParser s).par = s.par := rfl
@[simp] theorem idleParser_phase (s : State) : (idleParser s).phase = s.phase := rfl
@[simp] theorem idleParser_role (s : State) : (idleParser s).role = s.role := rfl
@[simp] theorem idleParser_cfgMaxRetry (s : State) : (idleParser s).cfgMaxRetry = s.cfgMaxRetry := rfl
@[simp] theorem idleParser_cfgTimeout (s : State) : (idleParser s).cfgTimeout = s.cfgTimeout := rfl
@[simp] theorem idleParser_cfgBaud (s : State) : (idleParser s).cfgBaud = s.cfgBaud := rfl
@[simp] theorem idleParser_cfgPort (s : State) : (idleParser s).cfgPort = s.cfgPort := rfl
@[simp] theorem idleParser_ns (s : State) : (idleParser s).ns = s.ns := rfl
@[simp] theorem idleParser_nr (s : State) : (idleParser s).nr = s.nr := rfl
@[simp] theorem idleParser_retry (s : State) : (idleParser s).retry = s.retry := rfl
@[simp] theorem idleParser_timerArmed (s : State) : (idleParser s).timerArmed = s.timerArmed := rfl
@[simp] theorem idleParser_parser (s : State) : (idleParser s).parser = { s.parser with ps := .idle } := rfl
@[simp] theorem idleParser_dstbuf (s : State) : (idleParser s).dstbuf = s.dstbuf := rfl
@[simp] theorem idleParser_txbuf (s : State) : (idleParser s).txbuf = s.txbuf := rfl
@[simp] theorem idleParser_txlen (s : State) : (idleParser s).txlen = s.txlen := rfl
@[simp] theorem idleParser_wlen (s : State) : (idleParser s).wlen = s.wlen := rfl
@[simp] theorem idleParser_discSeen (s : State) : (idleParser s).discSeen = s.discSeen := rfl
@[simp] theorem idleParser_fault (s : State) : (idleParser s).fault = s.fault := rfl
@[simp] theorem idleParser_topen (s : State) : (idleParser s).topen = s.topen := rfl
@[simp] theorem idleParser_unitbuf (s : State) : (idleParser s).unitbuf = s.unitbuf := rfl
@[simp] theorem idleParser_port (s : State) : (idleParser s).port = s.port := rfl
@[simp] theorem idleParser_rxQueue (s : State) : (idleParser s).rxQueue = s.rxQueue := rfl
@[simp] theorem idleParser_events (s : State) : (idleParser s).events = s.events := rfl
@[simp] theorem idleParser_outputs (s : State) : (idleParser s).outputs = s.outputs := rfl
@[simp] theorem idleParser_freeCount (s : State) : (idleParser s).freeCount = s.freeCount := rfl

/-! ### endCommand -/

@[simp] theorem endCommand_par (ph : Phase) (c : ResultCode) (n : Nat) (d : List Byte) (s : State) : (endCommand ph c n d s).par = s.par := rfl
@[simp] theorem endCommand_phase (ph : Phase) (c : ResultCode) (n : Nat) (d : List Byte) (s : State) : (endCommand ph c n d s).phase = ph := rfl
@[simp] theorem endCommand_role (ph : Phase) (c : ResultCode) (n : Nat) (d : List Byte) (s : State) : (endCommand ph c n d s).role = s.role := rfl
@[simp] theorem endCommand_cfgMaxRetry (ph : Phase) (c : ResultCode) (n : Nat) (d : List Byte) (s : State) : (endCommand ph c n d s).cfgMaxRetry = s.cfgMaxRetry := rfl
@[simp] theorem endCommand_cfgTimeout (ph : Phase) (c : ResultCode) (n : Nat) (d : List Byte) (s : State) : (endCommand ph c n d s).cfgTimeout = s.cfgTimeout := rfl
@[simp] theorem endCommand_cfgBaud (ph : Phase) (c : ResultCode) (n : Nat) (d : List Byte) (s : State) : (endCommand ph c n d s).cfgBaud = s.cfgBaud := rfl
@[simp] theorem endCommand_cfgPort (ph : Phase) (c : ResultCode) (n : Nat) (d : List Byte) (s : State) : (endCommand ph c n d s).cfgPort = s.cfgPort := rfl
@[simp] theorem endCommand_ns (ph : Phase) (c : ResultCode) (n : Nat) (d : List Byte) (s : State) : (endCommand ph c n d s).ns = s.ns := rfl
@[simp] theorem endCommand_nr (ph : Phase) (c : ResultCode) (n : Nat) (d : List Byte) (s : State) : (endCommand ph c n d s).nr = s.nr := rfl
@[simp] theorem endCommand_retry (ph : Phase) (c : ResultCode) (n : Nat) (d : List Byte) (s : State) : (endCommand ph c n d s).retry = s.retry := rfl
@[simp] theorem endCommand_timerArmed (ph : Phase) (c : ResultCode) (n : Nat) (d : List Byte) (s : State) : (endCommand ph c n d s).timerArmed = s.timerArmed := rfl
@[simp] theorem endCommand_parser (ph : Phase) (c : ResultCode) (n : Nat) (d : List Byte) (s : State) : (endCommand ph c n d s).parser = s.parser := rfl
@[simp] theorem endCommand_dstbuf (ph : Phase) (c : ResultCode) (n : Nat) (d : List Byte) (s : State) : (endCommand ph c n d s).dstbuf = s.dstbuf := rfl
@[simp] theorem endCommand_txbuf (ph : Phase) (c : ResultCode) (n : Nat) (d : List Byte) (s : State) : (endCommand ph c n d s).txbuf = s.txbuf := rfl
@[simp] theorem endCommand_txlen (ph : Phase) (c : ResultCode) (n : Nat) (d : List Byte) (s : State) : (endCommand ph c n d s).txlen = s.txlen := rfl
@[simp] theorem endCommand_wlen (ph : Phase) (c : ResultCode) (n : Nat) (d : List Byte) (s : State) : (endCommand ph c n d s).wlen = s.wlen := rfl
@[simp] theorem endCommand_discSeen (ph : Phase) (c : ResultCode) (n : Nat) (d : List Byte) (s : State) : (endCommand ph c n d s).discSeen = s.discSeen := rfl
@[simp] theorem endCommand_fault (ph : Phase) (c : ResultCode) (n : Nat) (d : List Byte) (s : State) : (endCommand ph c n d s).fault = s.fault := rfl
@[simp] theorem endCommand_topen (ph : Phase) (c : ResultCode) (n : Nat) (d : List Byte) (s : State) : (endCommand ph c n d s).topen = s.topen := rfl
@[simp] theorem endCommand_unitbuf (ph : Phase) (c : ResultCode) (n : Nat) (d : List Byte) (s : State) : (endCommand ph c n d s).unitbuf = s.unitbuf := rfl
@[simp] theorem endCommand_port (ph : Phase) (c : ResultCode) (n : Nat) (d : List Byte) (s : State) : (endCommand ph c n d s).port = s.port := rfl
@[simp] theorem endCommand_rxQueue (ph : Phase) (c : ResultCode) (n : Nat) (d : List Byte) (s : State) : (endCommand ph c n d s).rxQueue = s.rxQueue := rfl
@[simp] theorem endCommand_events (ph : Phase) (c : ResultCode) (n : Nat) (d : List Byte) (s : State) : (endCommand ph c n d s).events = s.events := rfl
@[simp] theorem endCommand_outputs (ph : Phase) (c : ResultCode) (n : Nat) (d : List Byte) (s : State) : (endCommand ph c n d s).outputs = s.outputs ++ [.response (respWord (s.respLen n) c) d] := rfl
@[simp] theorem endCommand_freeCount (ph : Phase) (c : ResultCode) (n : Nat) (d : List Byte) (s : State) : (endCommand ph c n d s).freeCount = s.respFree n := rfl

/-! ### hostViolation -/

@[simp] theorem hostViolation_par (s : State) : (hostViolation s).par = s.par := rfl
@[simp] theorem hostViolation_phase (s : State) : (hostViolation s).phase = s.phase := rfl
@[simp] theorem hostViolation_role (s : State) : (hostViolation s).role = s.role := rfl
@[simp] theorem hostViolation_cfgMaxRetry (s : State) : (hostViolation s).cfgMaxRetry = s.cfgMaxRetry := rfl
@[simp] theorem hostViolation_cfgTimeout (s : State) : (hostViolation s).cfgTimeout = s.cfgTimeout := rfl
@[simp] theorem hostViolation_cfgBaud (s : State) : (hostViolation s).cfgBaud = s.cfgBaud := rfl
@[simp] theorem hostViolation_cfgPort (s : State) : (hostViolation s).cfgPort = s.cfgPort := rfl
@[simp] theorem hostViolation_ns (s : State) : (hostViolation s).ns = s.ns := rfl
@[simp] theorem hostViolation_nr (s : State) : (hostViolation s).nr = s.nr := rfl
@[simp] theorem hostViolation_retry (s : State) : (hostViolation s).retry = s.retry := rfl
@[simp] theorem hostViolation_timerArmed (s : State) : (hostViolation s).timerArmed = s.timerArmed := rfl
@[simp] theorem hostViolation_parser (s : State) : (hostViolation s).parser = s.parser := rfl
@[simp] theorem hostViolation_dstbuf (s : State) : (hostViolation s).dstbuf = s.dstbuf := rfl
@[simp] theorem hostViolation_txbuf (s : State) : (hostViolation s).txbuf = s.txbuf := rfl
@[simp] theorem hostViolation_txlen (s : State) : (hostViolation s).txlen = s.txlen := rfl
@[simp] theorem hostViolation_wlen (s : State) : (hostViolation s).wlen = s.wlen := rfl
@[simp] theorem hostViolation_discSeen (s : State) : (hostViolation s).discSeen = s.discSeen := rfl
@[simp] theorem hostViolation_fault (s : State) : (hostViolation s).fault = true := rfl
@[simp] theorem hostViolation_topen (s : State) : (hostViolation s).topen = s.topen := rfl
@[simp] theorem hostViolation_unitbuf (s : State) : (hostViolation s).unitbuf = s.unitbuf := rfl
@[simp] theorem hostViolation_port (s : State) : (hostViolation s).port = s.port := rfl
@[simp] theorem hostViolation_rxQueue (s : State) : (hostViolation s).rxQueue = s.rxQueue := rfl
@[simp] theorem hostViolation_events (s : State) : (hostViolation s).events = s.events := rfl
@[simp] theorem hostViolation_outputs (s : State) : (hostViolation s).outputs = s.outputs := rfl
@[simp] theorem hostViolation_freeCount (s : State) : (hostViolation s).freeCount = s.freeCount := rfl

/-! ### The response's LEN field -/

@[simp] theorem respLen_of_lt (s : State) (n : Nat) (h : n < 65536) : s.respLen n = BitVec.ofNat 16 n := by
  simp [State.respLen, h]

@[simp] theorem respFree_of_lt (s : State) (n : Nat) (h : n < 65536) : s.respFree n = s.freeCount := by
  simp [State.respFree, h]

end Sys2Proof.Laws
end

