-- ==== Sys2Proof/Laws/Exec.lean ====
section
/-! SUPPORT. What an instruction can do, once: every meaning answers a next state, and that state is one of the cases of
`Took`, each named after the rule it follows. -/

namespace Sys2Proof.Laws

open Sys2Proof.Machine

/-- The next states the instructions' rules allow from `s`, with what each rule asks of `s`. -/
inductive Took (i : Instr) (s : State) : State → Prop where
  /-- R313. -/
  | violate (w : Word) : encode i = .cmd w → Took i s (hostViolation s)
  /-- R199. -/
  | ignore (c : Byte) : encode i = .ctrl c → Took i s (idleParser s)
  /-- R211. -/
  | openFailed (role : Role) (k : Nat) : i = .hostOpen role k → openAccepted role (BitVec.ofNat 8 k) s = true →
      s.port.transportOk = false →
      Took i s (openFailed (transportOpen (openInit role (BitVec.ofNat 8 k) s)))
  /-- R212. -/
  | openTx (k : Nat) : i = .hostOpen .transmitter k → openAccepted .transmitter (BitVec.ofNat 8 k) s = true →
      s.port.transportOk = true →
      Took i s (openTransmitter { transportOpen (openInit .transmitter (BitVec.ofNat 8 k) s) with topen := true })
  /-- R217. -/
  | openRx (k : Nat) : i = .hostOpen .receiver k → openAccepted .receiver (BitVec.ofNat 8 k) s = true →
      s.port.transportOk = true →
      Took i s (openReceiver { transportOpen (openInit .receiver (BitVec.ofNat 8 k) s) with topen := true })
  /-- R220. -/
  | closeTx : i = .hostClose → s.phase = .opened → s.role = .transmitter → Took i s (closeTransmitter s)
  /-- R223. -/
  | closeRx : i = .hostClose → s.phase = .opened → s.role = .receiver → s.discSeen = false → Took i s (closeReceiver s)
  /-- R224. -/
  | closeRxSeen : i = .hostClose → s.phase = .opened → s.role = .receiver → s.discSeen = true →
      Took i s (closeReceiverSeen s)
  /-- R229. -/
  | closeBroken : i = .hostClose → s.phase = .broken → Took i s (closeBroken s)
  /-- R218. -/
  | setupReceived : i = .ctlSet → s.phase = .rSetup → s.takes addrT codeSet = true → Took i s (setupReceived (idleParser s))
  /-- R213. -/
  | setupAcknowledged : i = .ctlUa → s.phase = .tSetup → s.takes addrT codeUa = true → Took i s (setupAcknowledged (idleParser s))
  /-- R227. -/
  | teardownAcknowledged : i = .ctlUa → s.phase = .rTeardownUa → s.takes addrR codeUa = true →
      Took i s (teardownAcknowledged (idleParser s))
  /-- R221. -/
  | teardownAnswered : i = .ctlDisc → s.phase = .tTeardown → s.takes addrR codeDisc = true →
      Took i s (teardownAnswered (idleParser s))
  /-- R225. -/
  | teardownReceived : i = .ctlDisc → s.phase = .rTeardownDisc → s.takes addrT codeDisc = true →
      Took i s (teardownReceived (idleParser s))
  /-- R264. -/
  | disconnectRequested : i = .ctlDisc → s.phase = .rRead → s.takes addrT codeDisc = true →
      Took i s (disconnectRequested (idleParser s))
  /-- R240, C7. -/
  | writeRefused (len : Nat) : i = .hostWrite len → s.phase = .opened → s.role = .transmitter → Took i s (writeRefused s)
  /-- R241. -/
  | writeSent (len : Nat) (f : List Byte) : i = .hostWrite len → s.phase = .opened → s.role = .transmitter →
      hasLength s.port.data len = true → len ≤ s.par.maxPayload → buildI s.par s.ns s.port.data = .ok f →
      Took i s (writeSent f len s)
  /-- R244. -/
  | writeAccepted : encode i = .ctrl (ctrlRR s.ns.flip) → s.phase = .tWaitAck → s.takes addrT (ctrlRR s.ns.flip) = true →
      Took i s (writeAccepted (idleParser s))
  /-- R245. -/
  | writeRejected : encode i = .ctrl (ctrlREJ s.ns) → s.phase = .tWaitAck → s.takes addrT (ctrlREJ s.ns) = true →
      Took i s (writeRejected (idleParser s))
  /-- R260. -/
  | read : i = .hostRead → s.phase = .opened → s.role = .receiver →
      Took i s { s with parser := { s.parser with ps := .idle, rawlen := 0 }, phase := .rRead }
  /-- R262, R266 with a bad escape. -/
  | rejected (n : Bit) : encode i = .ctrl (ctrlI n) → s.phase = .rRead → Took i s (sendRej (idleParser s))
  /-- R267. -/
  | corrupt (n : Bit) : encode i = .ctrl (ctrlI n) → s.phase = .rRead → Took i s (readCorrupt (idleParser s))
  /-- R268 to R271, after dstbuf has received the destuffed region. -/
  | judged (n : Bit) (d : List Byte) : encode i = .ctrl (ctrlI n) → s.phase = .rRead →
      destuff s.par s.parser.raw s.par.dstCap = .ok d →
      Took i s (actOn (judge s.nr n d) { idleParser s with dstbuf := Memory.writeAll s.dstbuf 0 d })
  /-- R136, R137 with an output. -/
  | unitOutput (w : Word) (out : List Byte) : encode i = .cmd w → s.phase.busy = false → out.length ≤ s.par.unitCap →
      Took i s (respond .ok out.length out { s with unitbuf := Memory.writeAll s.unitbuf 0 out })
  /-- R136, R137 with an error, R153, R154, R155. -/
  | unitAnswer (w : Word) (c : ResultCode) (d : List Byte) : encode i = .cmd w → s.phase.busy = false → d.length < 65536 →
      Took i s (respond c d.length d s)

theorem execHostOpen_took (role : Role) (k : Nat) (s : State) :
    ∃ t, execHostOpen role k s = .next t ∧ Took (.hostOpen role k) s t := by
  unfold execHostOpen
  split
  · rename_i ha
    refine ⟨_, rfl, ?_⟩
    unfold openAnswered
    split
    · rename_i ho
      cases role with
      | transmitter => exact .openTx k rfl ha ho
      | receiver => exact .openRx k rfl ha ho
    · rename_i ho
      exact .openFailed role k rfl ha (eq_false_of_ne_true ho)
  · exact ⟨_, rfl, .violate _ rfl⟩

theorem execHostClose_took (s : State) : ∃ t, execHostClose s = .next t ∧ Took .hostClose s t := by
  unfold execHostClose
  split
  · cases hp : s.phase with
    | opened =>
      cases hr : s.role with
      | transmitter => exact ⟨_, rfl, .closeTx rfl hp hr⟩
      | receiver =>
        cases hd : s.discSeen with
        | true => exact ⟨_, rfl, .closeRxSeen rfl hp hr hd⟩
        | false => exact ⟨_, rfl, .closeRx rfl hp hr hd⟩
    | broken => exact ⟨_, rfl, .closeBroken rfl hp⟩
    | closed => exact ⟨_, rfl, .violate _ rfl⟩
    | tSetup => exact ⟨_, rfl, .violate _ rfl⟩
    | rSetup => exact ⟨_, rfl, .violate _ rfl⟩
    | tWaitAck => exact ⟨_, rfl, .violate _ rfl⟩
    | rRead => exact ⟨_, rfl, .violate _ rfl⟩
    | tTeardown => exact ⟨_, rfl, .violate _ rfl⟩
    | rTeardownDisc => exact ⟨_, rfl, .violate _ rfl⟩
    | rTeardownUa => exact ⟨_, rfl, .violate _ rfl⟩
  · exact ⟨_, rfl, .violate _ rfl⟩

theorem execCtlSet_took (s : State) : ∃ t, execCtlSet s = .next t ∧ Took .ctlSet s t := by
  unfold execCtlSet
  split
  · rename_i h
    simp only [Bool.and_eq_true, decide_eq_true_eq] at h
    exact ⟨_, rfl, .setupReceived rfl h.1 h.2⟩
  · exact ⟨_, rfl, .ignore _ rfl⟩

theorem execCtlUa_took (s : State) : ∃ t, execCtlUa s = .next t ∧ Took .ctlUa s t := by
  unfold execCtlUa
  split
  · rename_i h
    simp only [Bool.and_eq_true, decide_eq_true_eq] at h
    exact ⟨_, rfl, .setupAcknowledged rfl h.1 h.2⟩
  · split
    · rename_i h
      simp only [Bool.and_eq_true, decide_eq_true_eq] at h
      exact ⟨_, rfl, .teardownAcknowledged rfl h.1 h.2⟩
    · exact ⟨_, rfl, .ignore _ rfl⟩

theorem execCtlDisc_took (s : State) : ∃ t, execCtlDisc s = .next t ∧ Took .ctlDisc s t := by
  unfold execCtlDisc
  split
  · rename_i h
    simp only [Bool.and_eq_true, decide_eq_true_eq] at h
    exact ⟨_, rfl, .teardownAnswered rfl h.1 h.2⟩
  · split
    · rename_i h
      simp only [Bool.and_eq_true, decide_eq_true_eq] at h
      exact ⟨_, rfl, .teardownReceived rfl h.1 h.2⟩
    · split
      · rename_i h
        simp only [Bool.and_eq_true, decide_eq_true_eq] at h
        exact ⟨_, rfl, .disconnectRequested rfl h.1 h.2⟩
      · exact ⟨_, rfl, .ignore _ rfl⟩

theorem takeRr_took {i : Instr} {n : Bit} (hi : encode i = .ctrl (ctrlRR n)) (s : State) :
    ∃ t, takeRr n s = .next t ∧ Took i s t := by
  unfold takeRr
  split
  · rename_i h
    simp only [Bool.and_eq_true, decide_eq_true_eq] at h
    obtain ⟨⟨hp, rfl⟩, ht⟩ := h
    exact ⟨_, rfl, .writeAccepted hi hp ht⟩
  · exact ⟨_, rfl, .ignore _ hi⟩

theorem takeRej_took {i : Instr} {n : Bit} (hi : encode i = .ctrl (ctrlREJ n)) (s : State) :
    ∃ t, takeRej n s = .next t ∧ Took i s t := by
  unfold takeRej
  split
  · rename_i h
    simp only [Bool.and_eq_true, decide_eq_true_eq] at h
    obtain ⟨⟨hp, rfl⟩, ht⟩ := h
    exact ⟨_, rfl, .writeRejected hi hp ht⟩
  · exact ⟨_, rfl, .ignore _ hi⟩

theorem execHostWrite_took (len : Nat) (s : State) : ∃ t, execHostWrite len s = .next t ∧ Took (.hostWrite len) s t := by
  unfold execHostWrite
  split
  · rename_i h
    simp only [Bool.and_eq_true, decide_eq_true_eq] at h
    obtain ⟨⟨hp, hr⟩, hd⟩ := h
    split
    · rename_i hl
      split
      · rename_i f hf
        exact ⟨_, rfl, .writeSent len f rfl hp hr hd hl hf⟩
      · exact ⟨_, rfl, .writeRefused len rfl hp hr⟩
    · exact ⟨_, rfl, .writeRefused len rfl hp hr⟩
  · exact ⟨_, rfl, .violate _ rfl⟩

theorem execHostRead_took (s : State) : ∃ t, execHostRead s = .next t ∧ Took .hostRead s t := by
  unfold execHostRead
  split
  · exact ⟨_, rfl, .read rfl (by simp_all) (by simp_all)⟩
  · exact ⟨_, rfl, .violate _ rfl⟩

/-- What the receiver's judgement can be (R268 to R271). A payload is one byte shorter than its region. -/
theorem judge_cases (nr n : Bit) (d : List Byte) :
    judge nr n d ≠ .corrupt ∧ ∀ p, judge nr n d = .fresh p → p.length < d.length := by
  unfold judge
  split
  · simp
  · rename_i q hq
    have hd : d ≠ [] := by rintro rfl; cases hq
    have : 0 < d.length := List.length_pos_iff.mpr hd
    split_ifs
    · simp
    · refine ⟨by simp, fun p hp => ?_⟩
      cases hp
      simp only [List.length_dropLast]; omega
    · simp

theorem takeInfo_took {i : Instr} {n : Bit} (hi : encode i = .ctrl (ctrlI n)) (s : State) :
    ∃ t, takeInfo n s = .next t ∧ Took i s t := by
  unfold takeInfo
  split
  · rename_i hp
    cases hf : frameOut (ctrlI n) s.parser with
    | none => exact ⟨_, rfl, .ignore _ hi⟩
    | headerFail a c => exact ⟨_, rfl, .rejected n hi hp⟩
    | candidate a c raw =>
      simp only
      split
      · refine ⟨_, rfl, ?_⟩
        have hr : raw = s.parser.raw := by
          unfold frameOut at hf
          split at hf
          · cases hf; rfl
          · cases hf
        subst hr
        unfold receiveRegion
        split
        · exact .rejected n hi hp
        · exact .corrupt n hi hp
        · rename_i d hd
          exact .judged n d hi hp hd
      · exact ⟨_, rfl, .ignore _ hi⟩
  · exact ⟨_, rfl, .ignore _ hi⟩

theorem acceptsUnit_idle {s : State} {n : Nat} (h : s.acceptsUnit n = true) : s.phase.busy = false := by
  simp_all [State.acceptsUnit]

theorem respondCodec_took {i : Instr} {w : Word} {s : State} {r : Except CodecError (List Byte)}
    (hi : encode i = .cmd w) (hp : s.phase.busy = false)
    (hr : ∀ out, r = .ok out → out.length ≤ s.par.unitCap) : Took i s (respondCodec r s) := by
  unfold respondCodec
  split
  · exact .unitOutput w _ hi hp (hr _ rfl)
  · exact .unitAnswer w .malformedEscape [] hi hp (by simp)
  · exact .unitAnswer w .bufferExhausted [] hi hp (by simp)

/-- Every instruction answers a next state, and a rule gives it. -/
theorem exec_took (i : Instr) (s : State) : ∃ t, exec i s = .next t ∧ Took i s t := by
  cases i with
  | ctlI0 => exact takeInfo_took (n := 0#1) rfl s
  | ctlI1 => exact takeInfo_took (n := 1#1) rfl s
  | ctlSet => exact execCtlSet_took s
  | ctlUa => exact execCtlUa_took s
  | ctlDisc => exact execCtlDisc_took s
  | ctlRr0 => exact takeRr_took (n := 0#1) rfl s
  | ctlRr1 => exact takeRr_took (n := 1#1) rfl s
  | ctlRej0 => exact takeRej_took (n := 0#1) rfl s
  | ctlRej1 => exact takeRej_took (n := 1#1) rfl s
  | hostOpen role k => exact execHostOpen_took role k s
  | hostWrite len => exact execHostWrite_took len s
  | hostRead => exact execHostRead_took s
  | hostClose => exact execHostClose_took s
  | unitStuff len =>
    simp only [exec, execUnitStuff]
    split
    · rename_i h
      exact ⟨_, rfl, respondCodec_took rfl (acceptsUnit_idle h) fun _ e => (stuff_ok_iff.mp e).2⟩
    · exact ⟨_, rfl, .violate _ rfl⟩
  | unitDestuff len =>
    simp only [exec, execUnitDestuff]
    split
    · rename_i h
      exact ⟨_, rfl, respondCodec_took rfl (acceptsUnit_idle h) fun _ e => destuff_length e⟩
    · exact ⟨_, rfl, .violate _ rfl⟩
  | unitHcs a c =>
    simp only [exec, execUnitHcs]
    split
    · rename_i h
      exact ⟨_, rfl, .unitAnswer _ .ok [_] rfl (acceptsUnit_idle h) (by simp)⟩
    · exact ⟨_, rfl, .violate _ rfl⟩
  | unitPcs len =>
    simp only [exec, execUnitPcs]
    split
    · rename_i h
      exact ⟨_, rfl, .unitAnswer _ .ok [_] rfl (acceptsUnit_idle h) (by simp)⟩
    · exact ⟨_, rfl, .violate _ rfl⟩
  | unitHdrchk a c bcc =>
    simp only [exec, execUnitHdrchk]
    split
    · rename_i h
      exact ⟨_, rfl, .unitAnswer _ .ok [_] rfl (acceptsUnit_idle h) (by simp)⟩
    · exact ⟨_, rfl, .violate _ rfl⟩

theorem took_of_exec {i : Instr} {s t : State} (h : exec i s = .next t) : Took i s t := by
  obtain ⟨t', e, ht⟩ := exec_took i s
  rw [e] at h
  cases h
  exact ht

end Sys2Proof.Laws
end

