-- ==== Sys2Proof/Laws/Meanings.lean ====
section
/-! SUPPORT. Small facts the meanings rest on: a response word as a number, BuildI on a legal payload, and what the receiver does
with a region, one lemma per rule (R105, R161, R266 to R271). -/

namespace Sys2Proof.Laws

open Sys2Proof.Machine

theorem bit_cases (n : Bit) : n = 0#1 ∨ n = 1#1 := by revert n; decide

theorem bit_flip_ne (n : Bit) : n.flip ≠ n := by revert n; decide

theorem byte_succ (r : Byte) : r + 1#8 = BitVec.ofNat 8 (r.toNat + 1) := by
  apply BitVec.eq_of_toNat_eq; simp

/-- LEN and CODE as one number (R105). -/
theorem respWord_ofNat (n : Nat) (c : ResultCode) :
    respWord (BitVec.ofNat 16 n) c = BitVec.ofNat 32 (n * 65536 + (codeNumber c).toNat) := by
  have hc := (codeNumber c).isLt
  apply BitVec.eq_of_toNat_eq
  simp only [respWord, BitVec.toNat_append, BitVec.toNat_ofNat, ← Nat.shiftLeft_add_eq_or_of_lt hc]
  simp [Nat.shiftLeft_eq]
  omega

@[simp] theorem respLen_small {s : State} {n : Nat} (h : n < 65536) : s.respLen n = BitVec.ofNat 16 n := by
  simp [State.respLen, h]

@[simp] theorem respFree_small {s : State} {n : Nat} (h : n < 65536) : s.respFree n = s.freeCount := by
  simp [State.respFree, h]

theorem stuffPiece_length_le (par : Params) (b : Byte) : (stuffPiece par b).length ≤ 2 := by
  unfold stuffPiece; split_ifs <;> simp

/-- R135: stuffing at most doubles. -/
theorem stuffed_length_le (par : Params) (x : List Byte) : (x.flatMap (stuffPiece par)).length ≤ 2 * x.length := by
  induction x with
  | nil => simp
  | cons b x ih =>
    have := stuffPiece_length_le par b
    simp only [List.flatMap_cons, List.length_append, List.length_cons]; omega

/-- R161: BuildI never fails on a payload within MAX_PAYLOAD. -/
theorem buildI_legal {par : Params} (s : Bit) {p : List Byte} (h : par.ok) (hp : p.length ≤ par.maxPayload) :
    buildI par s p = .ok (infoFrame s ((infoBody p).flatMap (stuffPiece par))) := by
  refine buildI_ok_iff.mpr ⟨_, stuff_ok_iff.mpr ⟨rfl, ?_⟩, rfl⟩
  have := stuffed_length_le par (infoBody p)
  have hb : (infoBody p).length = p.length + 1 := by simp [infoBody]
  obtain ⟨_, _, _, h4, _⟩ := h
  omega

/-! ### The receiver's cases -/

variable {s : State} {n : Bit} {raw d p : List Byte}

/-- R266. -/
theorem receiveRegion_escape {j : Nat} (h : destuff s.par raw s.par.dstCap = .error (.malformedEscape j)) :
    receiveRegion n raw s = sendRej s := by simp [receiveRegion, h, actOn]

/-- R267. -/
theorem receiveRegion_exhausted {j : Nat} (h : destuff s.par raw s.par.dstCap = .error (.bufferExhausted j)) :
    receiveRegion n raw s = readCorrupt s := by simp [receiveRegion, h, actOn]

theorem receiveRegion_destuffed (h : destuff s.par raw s.par.dstCap = .ok d) :
    receiveRegion n raw s = actOn (judge s.nr n d) { s with dstbuf := Memory.writeAll s.dstbuf 0 d } := by
  simp [receiveRegion, h]

/-- R268. -/
@[simp] theorem judge_empty (nr : Bit) : judge nr n [] = .reject .empty := rfl

/-- R269. -/
theorem judge_badChecksum (nr : Bit) {q : Byte} (h : pcs p ≠ q) : judge nr n (p ++ [q]) = .reject .payload := by
  simp [judge, h]

/-- R270. -/
theorem judge_fresh : judge n n (p ++ [pcs p]) = .fresh p := by simp [judge]

/-- R271. -/
theorem judge_duplicate {nr : Bit} (h : n ≠ nr) : judge nr n (p ++ [pcs p]) = .duplicate := by simp [judge, h]

end Sys2Proof.Laws
end

