-- ==== Sys2Proof/Laws/Memory.lean ====
section
/-! SUPPORT. The laws of the byte buffers (R71, R72): a read after a write, the canonical form that every write keeps, and
what a block write leaves in `buf[0..n)`. -/

namespace Sys2Proof.Laws

open Sys2Proof.Machine

@[simp] theorem memory_read_nil (i : Nat) : Memory.read [] i = 0x00#8 := rfl

theorem memory_wf_nil : Memory.wf [] := ⟨List.Pairwise.nil, by simp⟩

theorem memory_within_nil (cap : Nat) : Memory.within [] cap := by simp [Memory.within]

/-- The tail of a canonical list is canonical, and every later index is above the first. -/
theorem memory_wf_cons {c : Host.Cell} {m : Memory} :
    Memory.wf (c :: m) ↔ (∀ d ∈ m, c.1 < d.1) ∧ c.2 ≠ 0x00#8 ∧ Memory.wf m := by
  simp only [Memory.wf, List.pairwise_cons, List.forall_mem_cons]
  tauto

/-- An index below every cell's reads 0x00. -/
theorem memory_read_below {m : Memory} {i : Nat} (h : ∀ c ∈ m, i < c.1) : Memory.read m i = 0x00#8 := by
  induction m with
  | nil => rfl
  | cons c m ih =>
    have hc := h c (by simp)
    rw [Memory.read, if_neg (by omega), ih fun d hd => h d (by simp [hd])]

/-- A write's cells are the old cells at other indices, and perhaps the written one. -/
theorem memory_mem_write {m : Memory} {i : Nat} {v : Byte} {c : Host.Cell} (h : c ∈ Memory.write m i v) :
    c ∈ m ∨ c = (i, v) ∧ v ≠ 0x00#8 := by
  induction m with
  | nil =>
    rw [Memory.write] at h
    split at h <;> simp_all
  | cons d m ih =>
    rw [Memory.write] at h
    split at h
    · split at h <;> (simp_all; try tauto)
    · split at h
      · split at h <;> (simp_all; try tauto)
      · rcases List.mem_cons.mp h with rfl | h
        · simp
        · rcases ih h with h | h
          · simp [h]
          · exact Or.inr h

/-- Every write keeps the canonical form. -/
theorem memory_wf_write {m : Memory} (h : m.wf) (i : Nat) (v : Byte) : (Memory.write m i v).wf := by
  induction m with
  | nil =>
    rw [Memory.write]
    split
    · exact memory_wf_nil
    · rename_i hv
      exact memory_wf_cons.mpr ⟨by simp, hv, memory_wf_nil⟩
  | cons d m ih =>
    have ⟨hlt, hne, hm⟩ := memory_wf_cons.mp h
    rw [Memory.write]
    split
    · rename_i hi
      split
      · exact h
      · rename_i hv
        refine memory_wf_cons.mpr ⟨?_, hv, h⟩
        intro e he
        rcases List.mem_cons.mp he with rfl | he
        · exact hi
        · exact Nat.lt_trans hi (hlt e he)
    · split
      · rename_i hi
        split
        · exact hm
        · rename_i hv
          exact memory_wf_cons.mpr ⟨fun e he => by simpa [hi] using hlt e he, hv, hm⟩
      · rename_i h1 h2
        refine memory_wf_cons.mpr ⟨?_, hne, ih hm⟩
        intro e he
        rcases memory_mem_write he with he | ⟨rfl, -⟩
        · exact hlt e he
        · simp only; omega

/-- A read after a write gives the written byte at its index and the old byte elsewhere. -/
theorem memory_read_write {m : Memory} (h : m.wf) (i j : Nat) (v : Byte) :
    Memory.read (Memory.write m i v) j = if j = i then v else Memory.read m j := by
  induction m with
  | nil =>
    rw [Memory.write]
    split <;> simp_all [Memory.read]
  | cons d m ih =>
    have ⟨hlt, _, hm⟩ := memory_wf_cons.mp h
    rw [Memory.write]
    split
    · rename_i hi
      split
      · rename_i hv
        subst hv
        split
        · rename_i hj
          subst hj
          refine memory_read_below fun c hc => ?_
          rcases List.mem_cons.mp hc with rfl | hc
          · exact hi
          · exact Nat.lt_trans hi (hlt c hc)
        · rfl
      · rw [Memory.read]
    · split
      · rename_i hi
        subst hi
        split
        · rename_i hv
          subst hv
          by_cases hj : j = d.1
          · subst hj
            rw [if_pos rfl, memory_read_below hlt]
          · rw [if_neg hj, Memory.read, if_neg hj]
        · by_cases hj : j = d.1 <;> simp [Memory.read, hj]
      · rename_i h1 h2
        by_cases hj : j = d.1
        · subst hj
          rw [Memory.read, if_pos rfl, if_neg (fun e => h2 e.symm), Memory.read, if_pos rfl]
        · rw [Memory.read, if_neg hj, ih hm, Memory.read, if_neg hj]

theorem memory_within_write {m : Memory} {cap i : Nat} (h : m.within cap) (hi : i < cap) (v : Byte) :
    (Memory.write m i v).within cap := by
  intro c hc
  rcases memory_mem_write hc with hc | ⟨rfl, -⟩
  · exact h c hc
  · exact hi

theorem memory_wf_writeAll {m : Memory} (h : m.wf) (i : Nat) (bs : List Byte) : (Memory.writeAll m i bs).wf := by
  induction bs generalizing m i with
  | nil => exact h
  | cons b bs ih => exact ih (memory_wf_write h i b) (i + 1)

theorem memory_within_writeAll {m : Memory} {cap i : Nat} {bs : List Byte} (h : m.within cap)
    (hi : i + bs.length ≤ cap) : (Memory.writeAll m i bs).within cap := by
  induction bs generalizing m i with
  | nil => exact h
  | cons b bs ih =>
    simp only [List.length_cons] at hi
    exact ih (memory_within_write h (by omega) b) (by omega)

/-- A block write changes nothing below its first index and nothing from its end on, and leaves byte `j` of the block at
index `i + j`. -/
theorem memory_read_writeAll {m : Memory} (h : m.wf) (i j : Nat) (bs : List Byte) :
    Memory.read (Memory.writeAll m i bs) j = if i ≤ j then (bs[j - i]?).getD (Memory.read m j) else Memory.read m j := by
  induction bs generalizing m i with
  | nil => simp [Memory.writeAll]
  | cons b bs ih =>
    rw [Memory.writeAll, ih (memory_wf_write h i b) (i + 1), memory_read_write h]
    by_cases hij : i ≤ j
    · by_cases he : j = i
      · subst he; simp
      · have h1 : i + 1 ≤ j := by omega
        have h2 : j - i = j - (i + 1) + 1 := by omega
        simp [hij, h1, he, h2]
    · have : ¬ (i + 1 ≤ j) := by omega
      have : j ≠ i := by omega
      simp [*]

@[simp] theorem memory_slice_length (m : Memory) (n : Nat) : (Memory.slice m n).length = n := by
  simp [Memory.slice]

@[simp] theorem memory_slice_zero (m : Memory) : Memory.slice m 0 = [] := rfl

theorem memory_slice_succ (m : Memory) (n : Nat) :
    Memory.slice m (n + 1) = Memory.slice m n ++ [Memory.read m n] := by
  simp [Memory.slice, List.range_succ]

/-- `buf[0..len(bs))` after the block `bs` was written from index 0 is `bs`. -/
theorem memory_slice_writeAll {m : Memory} (h : m.wf) (bs : List Byte) :
    Memory.slice (Memory.writeAll m 0 bs) bs.length = bs := by
  apply List.ext_getElem?
  intro j
  by_cases hj : j < bs.length
  · simp [Memory.slice, memory_read_writeAll h, hj]
  · simp [Memory.slice, hj]

/-- A write at or above `n` leaves `buf[0..n)` alone. -/
theorem memory_slice_write_above {m : Memory} (h : m.wf) {n i : Nat} (hi : n ≤ i) (v : Byte) :
    Memory.slice (Memory.write m i v) n = Memory.slice m n := by
  refine List.map_congr_left fun j hj => ?_
  have := List.mem_range.mp hj
  rw [memory_read_write h, if_neg (by omega)]

/-- Appending a byte at index `n`: `buf[0..n+1)` is `buf[0..n)` and that byte. -/
theorem memory_slice_append {m : Memory} (h : m.wf) (n : Nat) (v : Byte) :
    Memory.slice (Memory.write m n v) (n + 1) = Memory.slice m n ++ [v] := by
  rw [memory_slice_succ, memory_slice_write_above h (Nat.le_refl n), memory_read_write h, if_pos rfl]

end Sys2Proof.Laws
end

