-- ==== Sys2Proof/Laws/Parser.lean ====
section
/-! SUPPORT. The parser's transitions as one case lemma: what a received byte can do to the parser (R183 to R196). -/

namespace Sys2Proof.Laws

open Sys2Proof.Machine

/-- The transitions of R183 to R196, one constructor per effect on the registers. -/
inductive Parses (par : Params) (ph : Phase) (p : Parser) (b : Byte) : Parser → Prop where
  /-- R184, R185: nothing changes. -/
  | stay : p.ps = .idle ∨ p.ps = .sawAddress → Parses par ph p b p
  /-- R183, R188, R191: the delimiter starts a frame. -/
  | start : p.ps = .idle ∨ p.ps = .sawControl ∨ p.ps = .sawChecksum → b = delim →
      Parses par ph p b { p with ps := .sawAddress }
  /-- R187, R190, R194, R195: the frame is dropped. -/
  | drop : p.ps = .sawAddress ∨ p.ps = .sawControl ∨ p.ps = .inPayload → Parses par ph p b { p with ps := .idle }
  /-- R186. -/
  | address : p.ps = .sawAddress → b ∈ addrSet → Parses par ph p b { p with pa := b, ps := .sawControl }
  /-- R189. -/
  | control : p.ps = .sawControl → b ∈ ctrlSet ph → Parses par ph p b { p with pc := b, ps := .sawChecksum }
  /-- R192. -/
  | checksum : p.ps = .sawChecksum → Parses par ph p b { p with pbcc := b, rawlen := 0, ps := .inPayload }
  /-- R193. -/
  | finish : p.ps = .inPayload → b = delim → Parses par ph p b { p with ps := .done }
  /-- R196. -/
  | append : p.ps = .inPayload → p.pc ∉ sCtrl → p.rawlen < par.rawCap →
      Parses par ph p b { p with rawbuf := Memory.write p.rawbuf p.rawlen b, rawlen := p.rawlen + 1 }

/-- Every transition is one of those, except at Done, where no byte is taken. -/
theorem parseByte_parses {par : Params} {ph : Phase} {p : Parser} {b : Byte} (h : p.ps ≠ .done) :
    Parses par ph p b (parseByte par ph p b).parser := by
  unfold parseByte
  cases hp : p.ps with
  | idle =>
    simp only [parseIdle]
    split_ifs with hb
    · exact .start (by simp [hp]) hb
    · exact .stay (by simp [hp])
  | sawAddress =>
    simp only [parseAddress]
    split_ifs with hb ha
    · exact .stay (by simp [hp])
    · exact .address hp ha
    · exact .drop (by simp [hp])
  | sawControl =>
    simp only [parseControl]
    split_ifs with hb hc
    · exact .start (by simp [hp]) hb
    · exact .control hp hc
    · exact .drop (by simp [hp])
  | sawChecksum =>
    simp only [parseChecksum]
    split_ifs with hb
    · exact .start (by simp [hp]) hb
    · exact .checksum hp
  | inPayload =>
    simp only [parsePayload]
    split_ifs with hb hs hr
    · exact .finish hp hb
    · exact .drop (by simp [hp])
    · exact .append hp hs hr
    · exact .drop (by simp [hp])
  | done => exact absurd hp h

/-- Only the closing delimiter of InPayload enters Done. -/
theorem parseByte_done {par : Params} {ph : Phase} {p : Parser} {b : Byte} (h : p.ps ≠ .done)
    (hd : (parseByte par ph p b).parser.ps = .done) :
    p.ps = .inPayload ∧ b = delim ∧ (parseByte par ph p b).parser = { p with ps := .done } := by
  have key := parseByte_parses (par := par) (ph := ph) (b := b) h
  generalize (parseByte par ph p b).parser = q at key hd
  cases key with
  | stay => exact absurd hd h
  | finish hp hb => exact ⟨hp, hb, rfl⟩
  | append hp => rw [hp] at hd; cases hd
  | start => cases hd
  | drop => cases hd
  | address => cases hd
  | control => cases hd
  | checksum => cases hd

@[simp] theorem parser_raw_idle (p : Parser) (x : Pos) : ({ p with ps := x } : Parser).raw = p.raw := rfl

end Sys2Proof.Laws
end

