-- ==== Sys2Proof/Laws/PerInstr.lean ====
section
/-! SUPPORT. Statements made per instruction, one lemma a constructor. `FixedBits`: the encoding of an instruction has the bits
its row of the opcode table fixes, whatever its operands (R93, R104). -/

namespace Sys2Proof.Laws.FixedBits

/-- A row of the opcode table: its format, and the bits it fixes. -/
inductive TableRow where
  | ctrl8 (value : Byte)
  | hostcmd32 (mask value : Word)
deriving DecidableEq, Repr

/-- The instruction's row, with the mask and match columns the table gives it. -/
def row : Instr → TableRow
  | .ctlI0 => .ctrl8 0x00#8
  | .ctlI1 => .ctrl8 0x40#8
  | .ctlSet => .ctrl8 0x03#8
  | .ctlUa => .ctrl8 0x07#8
  | .ctlDisc => .ctrl8 0x0B#8
  | .ctlRr0 => .ctrl8 0x05#8
  | .ctlRr1 => .ctrl8 0x85#8
  | .ctlRej0 => .ctrl8 0x01#8
  | .ctlRej1 => .ctrl8 0x81#8
  | .hostOpen _ _ => .hostcmd32 0xFFFF00EF#32 0x00000001#32
  | .hostWrite _ => .hostcmd32 0x0000FFFF#32 0x00000002#32
  | .hostRead => .hostcmd32 0xFFFFFFFF#32 0x00000003#32
  | .hostClose => .hostcmd32 0xFFFFFFFF#32 0x00000004#32
  | .unitStuff _ => .hostcmd32 0x0000FFFF#32 0x00000008#32
  | .unitDestuff _ => .hostcmd32 0x0000FFFF#32 0x00000009#32
  | .unitHcs _ _ => .hostcmd32 0xFF0000FF#32 0x0000000A#32
  | .unitPcs _ => .hostcmd32 0x0000FFFF#32 0x0000000B#32
  | .unitHdrchk _ _ _ => .hostcmd32 0x000000FF#32 0x0000000C#32

/-- The code has the row's format and its fixed bits. -/
def Matches : TableRow → Code → Prop
  | .ctrl8 v, .ctrl b => b = v
  | .hostcmd32 m v, .cmd w => w &&& m = v
  | _, _ => False

/-- The encoding of an instruction matches its row, whatever the operands. -/
def Statement (i : Instr) : Prop := Matches (row i) (encode i)

/-- A command word under a mask, field by field. -/
theorem cmdWord_and (hi hm : Half) (b bm : Byte) (r rm : Bit) (op om : BitVec 4) (z : BitVec 3) :
    cmdWord hi b r op &&& (hm ++ bm ++ z ++ rm ++ om) =
      (hi &&& hm) ++ (b &&& bm) ++ 0#3 ++ (r &&& rm) ++ (op &&& om) := by
  rw [cmdWord, BitVec.and_append, BitVec.and_append, BitVec.and_append, BitVec.and_append, BitVec.zero_and]

theorem ctlI0 : Statement .ctlI0 := rfl
theorem ctlI1 : Statement .ctlI1 := rfl
theorem ctlSet : Statement .ctlSet := rfl
theorem ctlUa : Statement .ctlUa := rfl
theorem ctlDisc : Statement .ctlDisc := rfl
theorem ctlRr0 : Statement .ctlRr0 := rfl
theorem ctlRr1 : Statement .ctlRr1 := rfl
theorem ctlRej0 : Statement .ctlRej0 := rfl
theorem ctlRej1 : Statement .ctlRej1 := rfl

theorem hostOpen (role : Role) (k : Nat) : Statement (.hostOpen role k) := by
  have := cmdWord_and 0#16 0xFFFF#16 (BitVec.ofNat 8 k) 0x00#8 role.code 0#1 0x1#4 0xF#4 0x7#3
  simpa [Statement, Matches, row, encode] using this

theorem lenCommand (len : Nat) (op : BitVec 4) :
    lenWord len op &&& 0x0000FFFF#32 = 0#16 ++ 0#8 ++ 0#3 ++ 0#1 ++ op := by
  have := cmdWord_and (BitVec.ofNat 16 len) 0x0000#16 0#8 0xFF#8 0#1 1#1 op 0xF#4 0x7#3
  have ho : op &&& 0xF#4 = op := BitVec.and_allOnes
  simpa [lenWord, ho] using this

theorem hostWrite (len : Nat) : Statement (.hostWrite len) := lenCommand len 0x2#4
theorem hostRead : Statement .hostRead := rfl
theorem hostClose : Statement .hostClose := rfl
theorem unitStuff (len : Nat) : Statement (.unitStuff len) := lenCommand len 0x8#4
theorem unitDestuff (len : Nat) : Statement (.unitDestuff len) := lenCommand len 0x9#4

theorem unitHcs (a c : Byte) : Statement (.unitHcs a c) := by
  have := cmdWord_and (0#8 ++ c) (0xFF#8 ++ 0x00#8) a 0x00#8 0#1 1#1 0xA#4 0xF#4 0x7#3
  rw [BitVec.and_append] at this
  simpa [Statement, Matches, row, encode] using this

theorem unitPcs (len : Nat) : Statement (.unitPcs len) := lenCommand len 0xB#4

theorem unitHdrchk (a c bcc : Byte) : Statement (.unitHdrchk a c bcc) := by
  have := cmdWord_and (bcc ++ c) 0x0000#16 a 0x00#8 0#1 1#1 0xC#4 0xF#4 0x7#3
  simpa [Statement, Matches, row, encode] using this

end Sys2Proof.Laws.FixedBits
end

