-- ==== Sys2Proof/Laws/Step.lean ====
section
/-! SUPPORT. What a step can do, once: `Stepped` lists the ways a step answers a next state, and `step_stepped` says that a
next state is one of them. Later proofs cite it instead of unfolding the step. -/

namespace Sys2Proof.Laws

open Sys2Proof.Machine

/-- The ways a step goes on (R314), with the event it consumed. -/
inductive Stepped (s : State) : State → Prop where
  /-- No event is left: the core waits. -/
  | wait : s.events = [] → Stepped s s
  /-- An event that is not enabled (R32, R54, R318): only the environment's list moves. -/
  | notEnabled (e : Event) (es : List Event) : s.events = e :: es →
      (e = .rxByte ∧ (s.phase.busy = false ∨ s.rxQueue = []) ∨ e = .expiry ∧ s.timerArmed = false) →
      Stepped s { s with events := es }
  /-- Bytes reach the transport (R54). -/
  | arrival (bs : List Byte) (es : List Event) : s.events = .arrive bs :: es →
      Stepped s { s with events := es, rxQueue := s.rxQueue ++ bs }
  /-- A command word that decodes (R104). -/
  | command (c : Command) (es : List Event) (i : Instr) (t : State) : s.events = .cmd c :: es →
      decodeCmd c.word = .ok i → Took i { s with events := es, port := c } t → Stepped s t
  /-- A command word that does not (R312 a, b). -/
  | badWord (c : Command) (es : List Event) : s.events = .cmd c :: es →
      Stepped s (hostViolation { s with events := es, port := c })
  /-- A byte the parser takes without ending a frame (R183 to R196). -/
  | byte (b : Byte) (q : List Byte) (es : List Event) (p : Parser) : s.events = .rxByte :: es → s.phase.busy = true →
      s.rxQueue = b :: q → s.parser.ps ≠ .done → Parses s.par s.phase s.parser b p → p.ps ≠ .done →
      Stepped s { s with events := es, rxQueue := q, parser := p }
  /-- The closing delimiter of a frame (R193, R197, R199). -/
  | frame (q : List Byte) (es : List Event) (i : Instr) (t : State) : s.events = .rxByte :: es → s.phase.busy = true →
      s.rxQueue = delim :: q → s.parser.ps = .inPayload → decodeCtrl s.parser.pc = .ok i →
      Took i { s with events := es, rxQueue := q, parser := { s.parser with ps := .done } } t → Stepped s t
  /-- R214. -/
  | setupResend (es : List Event) : s.events = .expiry :: es → s.timerArmed = true → s.phase = .tSetup →
      s.retry.toNat + 1 < s.cfgMaxRetry.toNat → Stepped s (setupResend (disarmTimer { s with events := es }))
  /-- R215. -/
  | setupExhausted (es : List Event) : s.events = .expiry :: es → s.timerArmed = true → s.phase = .tSetup →
      s.retry.toNat + 1 = s.cfgMaxRetry.toNat → Stepped s (setupExhausted (disarmTimer { s with events := es }))
  /-- R246. -/
  | writeResend (es : List Event) : s.events = .expiry :: es → s.timerArmed = true → s.phase = .tWaitAck →
      s.retry.toNat + 1 < s.cfgMaxRetry.toNat → Stepped s (writeResend (disarmTimer { s with events := es }))
  /-- R247. -/
  | writeExhausted (es : List Event) : s.events = .expiry :: es → s.timerArmed = true → s.phase = .tWaitAck →
      s.retry.toNat + 1 = s.cfgMaxRetry.toNat → Stepped s (writeExhausted (disarmTimer { s with events := es }))

theorem step_nil {s : State} (h : s.events = []) : step s = .next s := by simp [step, h]

theorem step_cons {s : State} {e : Event} {es : List Event} (h : s.events = e :: es) :
    step s = takeEvent e { s with events := es } := by simp [step, h]

theorem takeByte_stepped {s t : State} {b : Byte} {q : List Byte} {es : List Event} (he : s.events = .rxByte :: es)
    (hb : s.phase.busy = true) (hq : s.rxQueue = b :: q)
    (h : takeByte b { s with events := es, rxQueue := q } = .next t) : Stepped s t := by
  unfold takeByte at h
  split at h
  · cases h
  · rename_i hd
    split at h
    · cases h
    · simp only at h hd
      split at h
      · rename_i hf
        obtain ⟨hp, rfl, e⟩ := parseByte_done hd hf
        rw [e] at h
        simp only [runFrame] at h
        split at h
        · rename_i i hi
          exact .frame q es i t he hb hq hp hi (took_of_exec h)
        · cases h
      · rename_i hf
        cases h
        exact .byte b q es _ he hb hq hd (parseByte_parses hd) hf

theorem takeExpiry_stepped {s t : State} {es : List Event} (he : s.events = .expiry :: es)
    (h : takeExpiry { s with events := es } = .next t) : Stepped s t := by
  unfold takeExpiry at h
  split at h
  · rename_i ha
    split at h
    · rename_i hp
      unfold setupExpiry at h
      split at h
      · cases h; exact .setupResend es he ha hp (by assumption)
      · split at h
        · cases h; exact .setupExhausted es he ha hp (by assumption)
        · cases h
    · rename_i hp
      unfold ackExpiry at h
      split at h
      · cases h; exact .writeResend es he ha hp (by assumption)
      · split at h
        · cases h; exact .writeExhausted es he ha hp (by assumption)
        · cases h
    all_goals cases h
  · rename_i ha
    cases h
    exact .notEnabled .expiry es he (.inr ⟨rfl, by simpa using ha⟩)

/-- A step that answers a next state answers one of these. -/
theorem step_stepped {s t : State} (h : step s = .next t) : Stepped s t := by
  cases he : s.events with
  | nil =>
    rw [step_nil he] at h
    cases h
    exact .wait he
  | cons e es =>
    rw [step_cons he] at h
    cases e with
    | cmd c =>
      simp only [takeEvent, takeCommand] at h
      split at h
      · rename_i i hi
        exact .command c es i t he hi (took_of_exec h)
      · cases h
        exact .badWord c es he
    | rxByte =>
      simp only [takeEvent, takeRx] at h
      split at h
      · rename_i hb
        split at h
        · rename_i hq
          cases h
          exact .notEnabled .rxByte es he (.inl ⟨rfl, .inr hq⟩)
        · rename_i b q hq
          exact takeByte_stepped he hb hq h
      · rename_i hb
        cases h
        exact .notEnabled .rxByte es he (.inl ⟨rfl, .inl (by simpa using hb)⟩)
    | expiry => exact takeExpiry_stepped he h
    | arrive bs =>
      cases h
      exact .arrival bs es he

end Sys2Proof.Laws
end

