-- ==== Sys2Proof/Laws/Run.lean ====
section
/-! SUPPORT. Runs of several steps: one step at a time, one run after another, and a run that only feeds the parser. -/

namespace Sys2Proof.Laws

open Sys2Proof.Machine

@[simp] theorem run_zero (s : State) : Host.Core.run Sys2Proof.core 0 s = .next s := rfl

theorem run_succ {s t : State} (h : step s = .next t) (n : Nat) :
    Host.Core.run Sys2Proof.core (n + 1) s = Host.Core.run Sys2Proof.core n t := by
  have h' : Sys2Proof.core.step s = .next t := h
  simp only [Host.Core.run, h']

/-- A run of `m + n` steps is a run of `n` steps from where `m` steps end. -/
theorem run_add {s t : State} {m : Nat} (h : Host.Core.run Sys2Proof.core m s = .next t) (n : Nat) :
    Host.Core.run Sys2Proof.core (m + n) s = Host.Core.run Sys2Proof.core n t := by
  induction m generalizing s with
  | zero => cases h; simp
  | succ m ih =>
    rw [show m + 1 + n = m + n + 1 by omega]
    cases hs : step s with
    | next u =>
      rw [run_succ hs] at h
      rw [run_succ hs, ih h]
    | fault r =>
      have h' : Sys2Proof.core.step s = .fault r := hs
      simp only [Host.Core.run, h'] at h
      cases h
    | refused r =>
      have h' : Sys2Proof.core.step s = .refused r := hs
      simp only [Host.Core.run, h'] at h
      cases h

/-- The parser past the control slot holds one of the nine codes (R189). -/
def Captured (p : Parser) : Prop := p.ps = .sawChecksum ∨ p.ps = .inPayload → p.pc ∈ sCtrl ++ iCtrl

theorem captured_not_broken {p : Parser} (h : Captured p) : captureBroken p = false := by
  unfold captureBroken
  by_cases hp : p.ps = .inPayload
  · rw [decide_eq_true (h (.inr hp))]; simp
  · simp [hp]

theorem ctrlSet_sub {ph : Phase} {c : Byte} (h : c ∈ ctrlSet ph) : c ∈ sCtrl ++ iCtrl := by
  cases ph <;> simp [ctrlSet, sCtrl, iCtrl] at h ⊢ <;> tauto

theorem captured_parses {par : Params} {ph : Phase} {p q : Parser} {b : Byte} (hp : Captured p)
    (h : Parses par ph p b q) : Captured q := by
  unfold Captured at *
  cases h with
  | control _ hc => intro _; exact ctrlSet_sub hc
  | _ => simp_all

/-- One byte that does not end a frame. -/
theorem step_byte {s : State} {b : Byte} {q : List Byte} {es : List Event} (he : s.events = .rxByte :: es)
    (hb : s.phase.busy = true) (hq : s.rxQueue = b :: q) (hd : s.parser.ps ≠ .done) (hc : Captured s.parser)
    (hn : (parseByte s.par s.phase s.parser b).parser.ps ≠ .done) :
    step s = .next { s with events := es, rxQueue := q, parser := (parseByte s.par s.phase s.parser b).parser } := by
  rw [step_cons he]
  simp [takeEvent, takeRx, hb, hq, takeByte, hd, captured_not_broken hc, hn]

end Sys2Proof.Laws
end

