-- ==== Sys2Proof/Laws/Safety.lean ====
section
/-! SUPPORT. The end of a run (R331): a quiescent core in a sound state stays as it is, whatever else is still offered. -/

namespace Sys2Proof.Laws

open Sys2Proof.Machine

/-- A step of a quiescent core changes the queue and the events offered, and nothing else; the core stays quiescent. -/
theorem quiescent_step {s t : State} (hi : s.Inv) (hq : s.quiescent) (h : step s = .next t) :
    t.quiescent ∧ t = { s with events := t.events, rxQueue := t.rxQueue } := by
  obtain ⟨hb, he⟩ := hq
  have ht : s.timerArmed = false := by
    cases ha : s.timerArmed with
    | false => rfl
    | true => rcases hi.timer.mp ha with h' | h' <;> simp [h', Phase.busy] at hb
  unfold step at h
  split at h
  · rename_i e0
    cases h
    exact ⟨⟨hb, he⟩, rfl⟩
  · rename_i e es e0
    have hes : ∀ e ∈ es, e.isCommand = false := fun e' h' => he e' (by rw [e0]; exact List.mem_cons_of_mem _ h')
    cases e with
    | cmd c => exact absurd (he (.cmd c) (by rw [e0]; exact List.mem_cons_self)) (by simp [Event.isCommand])
    | rxByte =>
      simp only [takeEvent, takeRx, hb, Bool.false_eq_true, if_false] at h
      cases h
      exact ⟨⟨hb, hes⟩, rfl⟩
    | expiry =>
      have h' : takeEvent .expiry { s with events := es } = .next { s with events := es } := if_neg (by simp [ht])
      rw [h'] at h
      cases h
      exact ⟨⟨hb, hes⟩, rfl⟩
    | arrive bs =>
      cases h
      exact ⟨⟨hb, hes⟩, rfl⟩

end Sys2Proof.Laws
end

