-- ==== Sys2Proof/Laws/System.lean ====
section
/-! SUPPORT. The channel and the system (R326, R327): fates give the bytes received in sent order, what each channel relates, and
what a move does to each core and to the fates. -/

namespace Sys2Proof.Laws

open Sys2Proof.Machine

/-! ### Fates -/

@[simp] theorem received_nil : received [] = [] := rfl
@[simp] theorem received_lost (fs : List Fate) : received (none :: fs) = received fs := rfl
@[simp] theorem received_kept (b : Byte) (fs : List Fate) : received (some b :: fs) = b :: received fs := rfl

@[simp] theorem received_append (fs gs : List Fate) : received (fs ++ gs) = received fs ++ received gs := by
  induction fs with
  | nil => rfl
  | cons f fs ih => cases f <;> simp [received, ih]

@[simp] theorem received_some (bs : List Byte) : received (bs.map some) = bs := by
  induction bs with
  | nil => rfl
  | cons b bs ih => simp [received, ih]

theorem statedFates_length (stated : List (Nat × Fate)) (i : Nat) (bs : List Byte) :
    (statedFates stated i bs).length = bs.length := by
  induction bs generalizing i with
  | nil => rfl
  | cons b bs ih => simp [statedFates, ih]

/-! ### Channels -/

/-- A perfect channel delivers exactly what was sent. -/
theorem perfect_relates (sent got : List Byte) : Channel.perfect.relates sent got ↔ got = sent := by
  constructor
  · rintro ⟨_, -, rfl, rfl⟩; simp
  · rintro rfl; exact ⟨got.map some, by simp, rfl, by simp⟩

/-- What a losing channel delivers is what was sent, in order, with bytes left out. -/
theorem losing_relates {sent got : List Byte} (h : Channel.losing.relates sent got) : got.Sublist sent := by
  obtain ⟨fs, -, h, rfl⟩ := h
  unfold Channel.losing at h
  induction h with
  | nil => exact .slnil
  | cons hf _ ih =>
    rcases hf with rfl | rfl
    · exact .cons _ ih
    · exact .cons_cons _ ih

/-- A corrupting channel delivers one byte for each byte sent. -/
theorem corrupting_relates {sent got : List Byte} (h : Channel.corrupting.relates sent got) : got.length = sent.length := by
  obtain ⟨fs, -, h, rfl⟩ := h
  unfold Channel.corrupting at h
  induction h with
  | nil => rfl
  | @cons _ f _ _ hf _ ih => cases f <;> simp_all [received]

/-- A channel never delivers more bytes than were sent. -/
theorem relates_length {ch : Channel} {sent got : List Byte} (h : ch.relates sent got) : got.length ≤ sent.length := by
  obtain ⟨fs, hl, -, rfl⟩ := h
  rw [← hl]
  clear hl
  induction fs with
  | nil => simp [received]
  | cons f fs ih => cases f <;> simp [received] <;> omega

/-- A settled system: what each core's transport has been given is what the channel relates to what the other core sent. -/
theorem settled_relates {ch : Side → Channel} {y : System} (h : y.settled ch) (src : Side) :
    (ch src).relates (y.sent src) (received (y.fates src)) :=
  ⟨y.fates src, (h src).1, (h src).2, rfl⟩

/-! ### Moves -/

/-- A conforming run, move by move. -/
theorem conforms_cons {ch : Side → Channel} {m : Move} {ms : List Move} {y z : System} (h : y.move m = .next z) :
    System.conforms ch (m :: ms) y ↔ y.allows ch m ∧ System.conforms ch ms z := by
  simp [System.conforms, h]

theorem run_cons_move {m : Move} {ms : List Move} {y z : System} (h : y.move m = .next z) :
    System.run (m :: ms) y = System.run ms z := by
  simp [System.run, h]

theorem move_offer_a {y : System} {e : Input} {s : State} (h : y.a.offer e = .next s) :
    y.move (.offer .a e) = .next { y with a := s } := by simp [System.move, h]

theorem move_offer_b {y : System} {e : Input} {s : State} (h : y.b.offer e = .next s) :
    y.move (.offer .b e) = .next { y with b := s } := by simp [System.move, h]

/-- Offers give no fates: a core's received bytes come by carries alone. -/
theorem move_fates {m : Move} {y z : System} (h : y.move m = .next z) (src : Side) :
    z.fates src = y.fates src ∨ ∃ fs, m = .carry src fs ∧ z.fates src = y.fates src ++ fs := by
  unfold System.move at h
  split at h
  · split at h <;> cases h; exact .inl (by cases src <;> rfl)
  · split at h <;> cases h; exact .inl (by cases src <;> rfl)
  · cases h; cases src
    · exact .inr ⟨_, rfl, rfl⟩
    · exact .inl rfl
  · cases h; cases src
    · exact .inl rfl
    · exact .inr ⟨_, rfl, rfl⟩

/-! ### Outputs and the bytes sent -/

theorem framesSent_append (os ps : List Output) : framesSent (os ++ ps) = framesSent os ++ framesSent ps := by
  induction os with
  | nil => rfl
  | cons o os ih => cases o <;> simp [framesSent, ih]

@[simp] theorem bytesSent_append (os ps : List Output) : bytesSent (os ++ ps) = bytesSent os ++ bytesSent ps := by
  simp [bytesSent, framesSent_append]

@[simp] theorem bytesSent_nil : bytesSent [] = [] := rfl

@[simp] theorem bytesSent_frame (f : List Byte) (os : List Output) : bytesSent (.frame f :: os) = f ++ bytesSent os := rfl

@[simp] theorem bytesSent_response (w : Word) (d : List Byte) (os : List Output) :
    bytesSent (.response w d :: os) = bytesSent os := rfl

@[simp] theorem bytesSent_transportOpen (p b : Nat) (ok : Bool) (os : List Output) :
    bytesSent (.transportOpen p b ok :: os) = bytesSent os := rfl

@[simp] theorem bytesSent_transportClose (os : List Output) : bytesSent (.transportClose :: os) = bytesSent os := rfl

end Sys2Proof.Laws
end

