-- ==== Sys2Proof/Machine/Program.lean ====
section
/-! DEFINITION. The program notation of R108: each line is the events it stands for (log 19). -/

namespace Sys2Proof.Machine

/-- A line of a program (R108). A command line carries its data bytes; OPEN also carries its side operands and the
answer the transport will give (R210, R323). -/
inductive Line where
  | command (i : Instr) (data : List Byte)
  | openWith (role : Role) (k timeout baud port : Nat) (transportOk : Bool)
  | rx (bytes : List Byte)
  | timerExpires
deriving DecidableEq, Repr

/-- The host's command with the word that encodes `i`. A control code is no host command, so it makes none. -/
def commandOf (i : Instr) (data : List Byte) (timeout baud port : Nat) (transportOk : Bool) : List Event :=
  match encode i with
  | .cmd w => [.cmd { word := w, data := data, timeout := timeout, baud := baud, port := port, transportOk := transportOk }]
  | .ctrl _ => []

/-- The events of a line, in order: RX bytes reach the transport and are then read one by one. -/
def Line.toEvents : Line → List Event
  | .command i data => commandOf i data 0 0 0 true
  | .openWith role k timeout baud port ok => commandOf (.hostOpen role k) [] timeout baud port ok
  | .rx bytes => .arrive bytes :: List.replicate bytes.length .rxByte
  | .timerExpires => [.expiry]

/-- The events of a program. -/
def programEvents (ls : List Line) : List Event := ls.flatMap Line.toEvents

/-- `s` with a program's events behind those it already has. -/
def State.withProgram (s : State) (ls : List Line) : State := { s with events := s.events ++ programEvents ls }

end Sys2Proof.Machine
end

