-- ==== Sys2Proof/Tests/Slice0.lean ====
section
/-! SUPPORT. The package's own tests: the WellFormed smoke, one written-out word per constructor, at most two one-step tests per
instruction with the results the spec's vectors give (95 parts 2 and 3), and a witness for each statement that has
hypotheses. -/

namespace Sys2Proof.Tests

open Sys2Proof Sys2Proof.Machine Sys2Proof.Claims

/-! ### Helpers -/

/-- The reset state in a phase of its role, with k = 3 and the timer armed where the phase has one. -/
def inPhase (ph : Phase) (role : Role) : State :=
  { State.reset with
    phase := ph, role := role, cfgMaxRetry := 3#8, topen := decide (ph ≠ .closed),
    timerArmed := decide (ph = .tSetup ∨ ph = .tWaitAck) }

/-- `s` with a frame in the parser just before its closing delimiter is handled. -/
def holding (a c bcc : Byte) (raw : List Byte) (s : State) : State :=
  { s with parser := { ps := .done, pa := a, pc := c, pbcc := bcc, rawbuf := Memory.writeAll [] 0 raw, rawlen := raw.length } }

/-- `s` with data at the command port. -/
def withData (data : List Byte) (s : State) : State := { s with port := { Command.none with data := data, transportOk := true } }

/-- T_WAIT_ACK with ns = 0 and I0[01] outstanding (95, 2.8). -/
def waitAck : State :=
  { inPhase .tWaitAck .transmitter with
    txbuf := Memory.writeAll [] 0 [0x7E#8, 0x03#8, 0x00#8, 0x03#8, 0x01#8, 0x01#8, 0x7E#8], txlen := 7, wlen := 1#16 }

/-- R_READ. -/
def reading (nr : Bit) : State := { inPhase .rRead .receiver with nr := nr }

/-- `s` with events to come. -/
def offered (es : List Event) (s : State) : State := { s with events := es }

/-- The observable part of an outcome: phase, the output events, STATUS. -/
def seen : Result → Option (Phase × List Output × Word)
  | .next s => some (s.phase, s.outputs, s.statusWord)
  | .fault _ => none
  | .refused _ => none

/-! ### WellFormed refuses what no word encodes -/

theorem test_illFormed_open : ¬ WellFormed (.hostOpen .receiver 256) := by decide
theorem test_illFormed_write : ¬ WellFormed (.hostWrite 65536) := by decide
theorem test_illFormed_stuff : ¬ WellFormed (.unitStuff 65536) := by decide
theorem test_illFormed_destuff : ¬ WellFormed (.unitDestuff 65536) := by decide
theorem test_illFormed_pcs : ¬ WellFormed (.unitPcs 65536) := by decide

/-! ### Decoding: one word per constructor, written out from the opcode table's encodings -/

theorem test_decode_ctlI0 : decodeCtrl 0b00000000#8 = .ok .ctlI0 := by decide
theorem test_decode_ctlI1 : decodeCtrl 0b01000000#8 = .ok .ctlI1 := by decide
theorem test_decode_ctlSet : decodeCtrl 0b00000011#8 = .ok .ctlSet := by decide
theorem test_decode_ctlUa : decodeCtrl 0b00000111#8 = .ok .ctlUa := by decide
theorem test_decode_ctlDisc : decodeCtrl 0b00001011#8 = .ok .ctlDisc := by decide
theorem test_decode_ctlRr0 : decodeCtrl 0b00000101#8 = .ok .ctlRr0 := by decide
theorem test_decode_ctlRr1 : decodeCtrl 0b10000101#8 = .ok .ctlRr1 := by decide
theorem test_decode_ctlRej0 : decodeCtrl 0b00000001#8 = .ok .ctlRej0 := by decide
theorem test_decode_ctlRej1 : decodeCtrl 0b10000001#8 = .ok .ctlRej1 := by decide
theorem test_decode_hostOpen :
    decodeCmd 0b00000000000000001000001100010001#32 = .ok (.hostOpen .receiver 0b10000011) := by decide
theorem test_decode_hostWrite : decodeCmd 0b10000000000000110000000000000010#32 = .ok (.hostWrite 32771) := by decide
theorem test_decode_hostRead : decodeCmd 0b00000000000000000000000000000011#32 = .ok .hostRead := by decide
theorem test_decode_hostClose : decodeCmd 0b00000000000000000000000000000100#32 = .ok .hostClose := by decide
theorem test_decode_unitStuff : decodeCmd 0b00000001000000100000000000001000#32 = .ok (.unitStuff 258) := by decide
theorem test_decode_unitDestuff : decodeCmd 0b00000001000000100000000000001001#32 = .ok (.unitDestuff 258) := by decide
theorem test_decode_unitHcs :
    decodeCmd 0b00000000100001010000000100001010#32 = .ok (.unitHcs 0x01#8 0x85#8) := by decide
theorem test_decode_unitPcs : decodeCmd 0b00000001000000100000000000001011#32 = .ok (.unitPcs 258) := by decide
theorem test_decode_unitHdrchk :
    decodeCmd 0b11000001001000110000011100001100#32 = .ok (.unitHdrchk 0x07#8 0x23#8 0xC1#8) := by decide
/-- Reserved and ill-formed words (95, 2.10). -/
theorem test_decode_refuses :
    decodeCmd 0x00000000#32 = .error (.reservedOp 0#4) ∧ decodeCmd 0x0000000F#32 = .error (.reservedOp 15#4) ∧
    decodeCmd 0x00000021#32 = .error (.unusedField 0x21#32) ∧ decodeCmd 0x00010003#32 = .error (.unusedField 0x10003#32) ∧
    decodeCtrl 0x02#8 = .error (.unknownControl 2#8) := by decide
theorem test_decodeTableWord :
    decodeTableWord 8 0x85 = some .ctlRr1 ∧ decodeTableWord 32 0x301 = some (.hostOpen .transmitter 3) ∧
    decodeTableWord 8 0x301 = none ∧ decodeTableWord 32 0 = none := by decide
/-- The next step from reset with a word placed runs it: UA completes an OPEN, and HCS answers. -/
theorem test_withFetchWord :
    seen (step (State.reset.withFetchWord 8 0x07)) = some (.opened, [.response 0#32 []], 0x00000003#32) ∧
    seen (step (State.reset.withFetchWord 32 0x0007030A)) = some (.closed, [.response 0x00010000#32 [0x04#8]], 0#32) := by
  decide

/-! ### Codec and framer (95, 2.1, 2.2, 2.5) -/

theorem test_stuff :
    stuff Params.default [0x11#8, 0x7E#8, 0x7D#8, 0x22#8] 16 = .ok [0x11#8, 0x7D#8, 0x5E#8, 0x7D#8, 0x5D#8, 0x22#8] ∧
    stuff Params.default [0x7E#8, 0x7E#8] 3 = .error (.bufferExhausted 1) := by decide
theorem test_destuff :
    destuff Params.default [0x01#8, 0x02#8, 0x7D#8] 2 = .error (.malformedEscape 2) ∧
    destuff Params.default [0x7D#8, 0x5E#8] 0 = .error (.bufferExhausted 2) ∧
    destuff Params.default [0x7E#8] 1 = .ok [0x7E#8] := by decide
theorem test_buildI :
    buildI Params.default 1#1 [0x7E#8] =
      .ok [0x7E#8, 0x03#8, 0x40#8, 0x43#8, 0x7D#8, 0x5E#8, 0x7D#8, 0x5E#8, 0x7E#8] := by decide
/-- Parser trace T2 (95, 2.6). -/
theorem test_parser_restart :
    (parseAll Params.default .rSetup State.reset.parser
      [0x00#8, 0x7E#8, 0x7E#8, 0x03#8, 0x7E#8, 0x03#8, 0x03#8, 0x00#8, 0x7E#8]).2 =
      List.replicate 8 .none ++ [.candidate 0x03#8 0x03#8 []] := by decide

/-! ### One step per instruction -/

/-- 95, 2.7: I0[01] at nr = 0 is delivered and answered with RR1. -/
theorem test_ctlI0_fresh :
    seen (exec .ctlI0 (holding 0x03#8 0x00#8 0x03#8 [0x01#8, 0x01#8] (reading 0#1))) =
      some (.opened, [.frame [0x7E#8, 0x03#8, 0x85#8, 0x86#8, 0x7E#8], .response 0x00010000#32 [0x01#8]], 0x00000453#32) := by
  decide
/-- 95, 2.7: at nr = 1 it is a duplicate: RR1, and READ keeps waiting. -/
theorem test_ctlI0_duplicate :
    seen (exec .ctlI0 (holding 0x03#8 0x00#8 0x03#8 [0x01#8, 0x01#8] (reading 1#1))) =
      some (.rRead, [.frame [0x7E#8, 0x03#8, 0x85#8, 0x86#8, 0x7E#8]], 0x00000455#32) := by decide
/-- 95, 2.7: a bad BCC1 on I1 at nr = 1 draws REJ1. -/
theorem test_ctlI1_badHeader :
    seen (exec .ctlI1 (holding 0x03#8 0x40#8 0x44#8 [0x01#8, 0x01#8] (reading 1#1))) =
      some (.rRead, [.frame [0x7E#8, 0x03#8, 0x81#8, 0x82#8, 0x7E#8]], 0x00000455#32) := by decide
/-- 95, P2: I1[AA] at nr = 1 is delivered and answered with RR0. -/
theorem test_ctlI1_fresh :
    seen (exec .ctlI1 (holding 0x03#8 0x40#8 0x43#8 [0xAA#8, 0xAA#8] (reading 1#1))) =
      some (.opened, [.frame [0x7E#8, 0x03#8, 0x05#8, 0x06#8, 0x7E#8], .response 0x00010000#32 [0xAA#8]], 0x00000413#32) := by
  decide
/-- 95, 2.9: SET@03 in R_SETUP; SET@01 is ignored. -/
theorem test_ctlSet :
    seen (exec .ctlSet (holding 0x03#8 0x03#8 0x00#8 [] (inPhase .rSetup .receiver))) =
      some (.opened, [.frame [0x7E#8, 0x03#8, 0x07#8, 0x04#8, 0x7E#8], .response 0#32 []], 0x00000413#32) := by decide
theorem test_ctlSet_wrongAddress :
    seen (exec .ctlSet (holding 0x01#8 0x03#8 0x02#8 [] (inPhase .rSetup .receiver))) =
      some (.rSetup, [], 0x00000412#32) := by decide
/-- 95, 2.9: UA@03 in T_SETUP, UA@01 in R_TEARDOWN_UA. -/
theorem test_ctlUa_setup :
    seen (exec .ctlUa (holding 0x03#8 0x07#8 0x04#8 [] (inPhase .tSetup .transmitter))) =
      some (.opened, [.response 0#32 []], 0x00000403#32) := by decide
theorem test_ctlUa_teardown :
    seen (exec .ctlUa (holding 0x01#8 0x07#8 0x06#8 [] (inPhase .rTeardownUa .receiver))) =
      some (.closed, [.transportClose, .response 0#32 []], 0x00000010#32) := by decide
/-- 95, 2.9: DISC@01 in T_TEARDOWN; 2.7: DISC@03 in R_READ. -/
theorem test_ctlDisc_teardown :
    seen (exec .ctlDisc (holding 0x01#8 0x0B#8 0x0A#8 [] (inPhase .tTeardown .transmitter))) =
      some (.closed, [.frame [0x7E#8, 0x01#8, 0x07#8, 0x06#8, 0x7E#8], .transportClose, .response 0#32 []], 0#32) := by decide
theorem test_ctlDisc_read :
    seen (exec .ctlDisc (holding 0x03#8 0x0B#8 0x08#8 [] (reading 0#1))) =
      some (.opened, [.response 0x00000003#32 []], 0x00000513#32) := by decide
/-- 95, 2.8: RR1 accepts at ns = 0; RR0 does nothing and the timer stays armed. -/
theorem test_ctlRr1_accept :
    seen (exec .ctlRr1 (holding 0x03#8 0x85#8 0x86#8 [] waitAck)) =
      some (.opened, [.response 0x00010000#32 []], 0x00000423#32) := by decide
theorem test_ctlRr1_badHeader :
    seen (exec .ctlRr1 (holding 0x03#8 0x85#8 0x87#8 [] waitAck)) = some (.tWaitAck, [], 0x00000484#32) := by decide
theorem test_ctlRr0_ignored :
    seen (exec .ctlRr0 (holding 0x03#8 0x05#8 0x06#8 [] waitAck)) = some (.tWaitAck, [], 0x00000484#32) := by decide
/-- 95, P6: RR0 accepts at ns = 1. -/
theorem test_ctlRr0_accept :
    seen (exec .ctlRr0 (holding 0x03#8 0x05#8 0x06#8 [] { waitAck with ns := 1#1 })) =
      some (.opened, [.response 0x00010000#32 []], 0x00000403#32) := by decide
/-- 95, 2.8: REJ0 at ns = 0 sends the frame again; REJ1 is ignored. -/
theorem test_ctlRej0_reject :
    seen (exec .ctlRej0 (holding 0x03#8 0x01#8 0x02#8 [] waitAck)) =
      some (.tWaitAck, [.frame [0x7E#8, 0x03#8, 0x00#8, 0x03#8, 0x01#8, 0x01#8, 0x7E#8]], 0x00000484#32) := by decide
theorem test_ctlRej1_ignored :
    seen (exec .ctlRej1 (holding 0x03#8 0x81#8 0x82#8 [] waitAck)) = some (.tWaitAck, [], 0x00000484#32) := by decide
/-- 95, 2.9: OPEN role=TX k=3, and k=0. -/
theorem test_hostOpen :
    seen (exec (.hostOpen .transmitter 3) (withData [] State.reset)) =
      some (.tSetup, [.transportOpen 0 0 true, .frame [0x7E#8, 0x03#8, 0x03#8, 0x00#8, 0x7E#8]], 0x00000481#32) := by decide
theorem test_hostOpen_zeroRetries :
    seen (exec (.hostOpen .transmitter 0) (withData [] State.reset)) = some (.closed, [], 0x00000200#32) := by decide
/-- 95, 2.8: WRITE [01] at ns = 0; 2.10: WRITE in role RX. -/
theorem test_hostWrite :
    seen (exec (.hostWrite 1) (withData [0x01#8] (inPhase .opened .transmitter))) =
      some (.tWaitAck, [.frame [0x7E#8, 0x03#8, 0x00#8, 0x03#8, 0x01#8, 0x01#8, 0x7E#8]], 0x00000484#32) := by decide
theorem test_hostWrite_receiver :
    seen (exec (.hostWrite 1) (withData [0x01#8] (inPhase .opened .receiver))) = some (.opened, [], 0x00000613#32) := by decide
/-- 46 R260; 95, 2.10: READ in role TX. -/
theorem test_hostRead :
    seen (exec .hostRead (withData [] (inPhase .opened .receiver))) = some (.rRead, [], 0x00000415#32) := by decide
theorem test_hostRead_transmitter :
    seen (exec .hostRead (withData [] (inPhase .opened .transmitter))) = some (.opened, [], 0x00000603#32) := by decide
/-- 95, 2.9: CLOSE in BROKEN; as Receiver with disc_seen = 1. -/
theorem test_hostClose_broken :
    seen (exec .hostClose (withData [] (inPhase .broken .transmitter))) =
      some (.closed, [.transportClose, .response 0x00000007#32 []], 0#32) := by decide
theorem test_hostClose_discSeen :
    seen (exec .hostClose (withData [] { inPhase .opened .receiver with discSeen := true })) =
      some (.rTeardownUa, [.frame [0x7E#8, 0x01#8, 0x0B#8, 0x0A#8, 0x7E#8]], 0x00000518#32) := by decide
/-- 95, 2.3. -/
theorem test_unitStuff :
    seen (exec (.unitStuff 2) (withData [0x7E#8, 0x41#8] State.reset)) =
      some (.closed, [.response 0x00030000#32 [0x7D#8, 0x5E#8, 0x41#8]], 0#32) := by decide
theorem test_unitDestuff :
    seen (exec (.unitDestuff 2) (withData [0x7D#8, 0x5D#8] State.reset)) =
      some (.closed, [.response 0x00010000#32 [0x7D#8]], 0#32) := by decide
theorem test_unitDestuff_truncated :
    seen (exec (.unitDestuff 1) (withData [0x7D#8] State.reset)) = some (.closed, [.response 0x00000006#32 []], 0#32) := by decide
theorem test_unitHcs :
    seen (exec (.unitHcs 0x01#8 0x85#8) (withData [] State.reset)) =
      some (.closed, [.response 0x00010000#32 [0x84#8]], 0#32) := by decide
theorem test_unitPcs :
    seen (exec (.unitPcs 4) (withData [0x11#8, 0x7E#8, 0x7D#8, 0x22#8] State.reset)) =
      some (.closed, [.response 0x00010000#32 [0x30#8]], 0#32) := by decide
theorem test_unitHdrchk :
    seen (exec (.unitHdrchk 0x03#8 0x03#8 0x01#8) (withData [] State.reset)) =
      some (.closed, [.response 0x00010000#32 [0x00#8]], 0#32) := by decide
/-- 95, 2.8 and 2.9: the timer, at retry 2 of k = 3 in T_WAIT_ACK and at retry 0 in T_SETUP. -/
theorem test_expiry_last :
    seen (step (offered [.expiry] { waitAck with retry := 2#8 })) =
      some (.broken, [.frame [0x7E#8, 0x03#8, 0x0B#8, 0x08#8, 0x7E#8], .response 0x00000002#32 []], 0x00030409#32) := by decide
theorem test_expiry_setup :
    seen (step (offered [.expiry] (inPhase .tSetup .transmitter))) =
      some (.tSetup, [.frame [0x7E#8, 0x03#8, 0x03#8, 0x00#8, 0x7E#8]], 0x00010481#32) := by decide

/-! ### Witnesses: for each statement with hypotheses, values that meet them, one line a clause -/

/-- An all-zero command with the word `w`. -/
def word (w : Word) : Command := { Command.none with word := w }

/-- InPayload of an information frame with `raw` buffered. -/
def midFrame (raw : List Byte) (s : State) : State :=
  { s with parser := { ps := .inPayload, pa := 0x03#8, pc := 0x00#8, pbcc := 0x03#8, rawbuf := Memory.writeAll [] 0 raw,
                       rawlen := raw.length } }

theorem witness_DecodeInvertsEncode :
    WellFormed (.hostOpen .receiver 255) ∧ WellFormed (.hostWrite 65535) ∧ WellFormed (.unitPcs 0) ∧ WellFormed .ctlI1 := by
  decide

theorem witness_DecodedWordsAreEncodings :
    decode (.ctrl 0x81#8) = .ok .ctlRej1 ∧ decode (.cmd 0xFFFF0002#32) = .ok (.hostWrite 65535) := by decide

theorem witness_StepRunsDecodedCommand :
    (offered [.cmd (word 0x00000004#32)] State.reset).events = .cmd (word 0x00000004#32) :: [] ∧
    decodeCmd (word 0x00000004#32).word = .ok .hostClose := by decide

theorem witness_StepRunsCapturedControl :
    let s := { midFrame [0x01#8, 0x01#8] (offered [.rxByte] (reading 0#1)) with rxQueue := [0x7E#8, 0x11#8] }
    s.events = .rxByte :: [] ∧ s.phase.busy = true ∧ s.rxQueue = 0x7E#8 :: [0x11#8] ∧ s.parser.ps = .inPayload ∧
    decodeCtrl s.parser.pc = .ok .ctlI0 := by decide

theorem witness_StepFeedsOneByteToTheParser :
    let s := { midFrame [0x01#8] (offered [.rxByte] (reading 0#1)) with rxQueue := [0x7F#8] }
    s.events = .rxByte :: [] ∧ s.phase.busy = true ∧ s.rxQueue = 0x7F#8 :: [] ∧ s.parser.ps ≠ .done ∧
    s.parser.ps = .inPayload ∧ 0x7F#8 ≠ 0x7E#8 ∧ decodeCtrl s.parser.pc = .ok .ctlI0 := by decide

theorem witness_CoreWaitsWithoutAnEnabledEvent :
    (State.reset.events = [] ∧
     (offered [.rxByte] (inPhase .broken .transmitter)).events = .rxByte :: [] ∧
     (offered [.rxByte] (reading 0#1)).events = .rxByte :: [] ∧ (offered [.rxByte] (reading 0#1)).rxQueue = [] ∧
     (offered [.expiry] (reading 0#1)).events = .expiry :: [] ∧ (offered [.expiry] (reading 0#1)).timerArmed = false ∧
     (offered [.arrive [0x7E#8]] State.reset).events = .arrive [0x7E#8] :: []) := by decide

theorem witness_UndecodableCommandsAreViolations :
    (offered [.cmd (word 0x0000000D#32)] State.reset).events = .cmd (word 0x0000000D#32) :: [] ∧
    (0x0000000D#32).toNat % 16 ∈ [0x0, 0x5, 0x6, 0x7, 0xD, 0xE, 0xF] ∧
    ((0x00010001#32).toNat % 16 = 0x1 ∧ 0x00010001#32 &&& 0xFFFF00E0#32 ≠ 0#32) ∧
    ((0x00000012#32).toNat % 16 ∈ [0x2, 0x8, 0x9, 0xB] ∧ 0x00000012#32 &&& 0x0000FFF0#32 ≠ 0#32) ∧
    ((0x00000103#32).toNat % 16 ∈ [0x3, 0x4] ∧ 0x00000103#32 &&& 0xFFFFFFF0#32 ≠ 0#32) ∧
    ((0x0100000A#32).toNat % 16 = 0xA ∧ 0x0100000A#32 &&& 0xFF0000F0#32 ≠ 0#32) ∧
    ((0x0000008C#32).toNat % 16 = 0xC ∧ 0x0000008C#32 &&& 0x000000F0#32 ≠ 0#32) := by decide

theorem witness_UnacceptedCommandsAreViolations :
    WellFormed (.unitHcs 1#8 1#8) ∧ encode (.unitHcs 1#8 1#8) = .cmd 0x0001010A#32 ∧ (reading 0#1).phase.busy = true ∧
    State.reset.port.data.length ≠ Instr.dataLen (.unitStuff 1) ∧
    encode (.hostOpen .transmitter 0) = .cmd 0x00000001#32 ∧ encode (.hostOpen .receiver 0) = .cmd 0x00000011#32 ∧
    (inPhase .opened .receiver).phase ≠ .closed ∧
    encode (.hostWrite 0) = .cmd 0x00000002#32 ∧ (inPhase .opened .receiver).role = .receiver ∧
    encode .hostRead = .cmd 0x00000003#32 ∧ (inPhase .broken .transmitter).phase ≠ .opened ∧
    encode .hostClose = .cmd 0x00000004#32 ∧ State.reset.phase = .closed := by decide

theorem witness_FaultIsStickyAndSetByCommands :
    step { State.reset with fault := true } = .next { State.reset with fault := true } ∧
    step (offered [.cmd (word 0#32)] State.reset) = .next { State.reset with port := word 0#32, fault := true } := ⟨rfl, rfl⟩

theorem witness_DestuffInvertsStuff :
    Params.default.markersOk ∧ stuff Params.default [0x7E#8, 0x41#8] 3 = .ok [0x7D#8, 0x5E#8, 0x41#8] ∧
    [0x7E#8, 0x41#8].length ≤ 2 := by decide

theorem witness_StuffedBytesHoldNoDelimiter :
    Params.default.markersOk ∧ stuff Params.default [0x7E#8] 2 = .ok [0x7D#8, 0x5E#8] := by decide

theorem witness_CodecLengthBounds :
    stuff Params.default [0x7E#8, 0x7D#8] 4 = .ok [0x7D#8, 0x5E#8, 0x7D#8, 0x5D#8] ∧
    destuff Params.default [0x7D#8, 0x5D#8] 1 = .ok [0x7D#8] ∧ 2 * [0x7E#8].length ≤ 2 ∧ [0x7E#8].length ≤ 1 := by decide

theorem witness_CodecScanRaisesTheFirstError :
    stuff Params.default [0x01#8] 2 = .ok [0x01#8] ∧ 2 < [0x01#8].length + (if 0x7E#8 = 0x7E#8 ∨ 0x7E#8 = 0x7D#8 then 2 else 1) ∧
    destuff Params.default [0x01#8] 1 = .ok [0x01#8] ∧ 0x00#8 ≠ Params.default.escFlagMark ∧
    0x00#8 ≠ Params.default.escEscMark ∧ 0x5E#8 = Params.default.escFlagMark ∧ 1 < [0x01#8].length + 1 ∧ 0x02#8 ≠ 0x7D#8 := by
  decide

theorem witness_PayloadChecksumLaws : [0x01#8, 0x02#8].Perm [0x02#8, 0x01#8] := by decide

theorem witness_HeadersHoldNoReservedByte : 0x03#8 ∈ [0x01#8, 0x03#8] ∧ 0x81#8 ∈ sCtrl ++ iCtrl := by decide

theorem witness_InfoFramesHaveTheirForm :
    Params.default.ok ∧ (List.replicate 16 0x7E#8).length ≤ Params.default.maxPayload := by decide

theorem witness_ParserHeaderTransitions :
    State.reset.parser.ps = .idle ∧ ({ State.reset.parser with ps := .sawAddress } : Parser).ps = .sawAddress ∧
    ({ State.reset.parser with ps := .sawControl } : Parser).ps = .sawControl ∧
    ({ State.reset.parser with ps := .sawChecksum } : Parser).ps = .sawChecksum := by decide

theorem witness_ParserPayloadTransitions :
    let s := midFrame (List.replicate 34 0x01#8) State.reset
    s.parser.ps = .inPayload ∧ s.parser.rawlen ≤ Params.default.rawCap ∧ s.parser.rawlen = Params.default.rawCap ∧
    s.parser.pc = 0x00#8 ∧ (midFrame [] State.reset).parser.rawlen < Params.default.rawCap ∧
    ({ s.parser with pc := 0x81#8 } : Parser).pc ∈ [0x03#8, 0x07#8, 0x0B#8, 0x05#8, 0x85#8, 0x01#8, 0x81#8] := by decide

theorem witness_ParserFindsEveryWellFormedFrame :
    0x03#8 ∈ [0x01#8, 0x03#8] ∧ 0x40#8 ∈ ctrlSet .rRead ∧ 0x40#8 ∉ sCtrl ∧ 0x7E#8 ∉ List.replicate 34 0x7D#8 ∧
    (List.replicate 34 0x7D#8).length ≤ Params.default.rawCap ∧ State.reset.parser.rawbuf.wf ∧
    State.reset.parser.ps = .idle ∧ (midFrame [] State.reset).parser.ps = .inPayload ∧
    (midFrame [] State.reset).parser.rawbuf.wf := by decide

theorem witness_OpenTransmitterSendsSet :
    1 ≤ 255 ∧ 255 < 256 ∧ State.reset.phase = .closed ∧ (withData [] State.reset).port.data = [] ∧
    (withData [] State.reset).port.transportOk = true := by decide

theorem witness_OpenReceiverWaitsForSet :
    0 < 256 ∧ (withData [] State.reset).phase = .closed ∧ (withData [] State.reset).port.data = [] ∧
    (withData [] State.reset).port.transportOk = true := by decide

theorem witness_OpenFailsWithTheTransport :
    1 < 256 ∧ (Role.transmitter = .transmitter → 1 ≤ 1) ∧ State.reset.phase = .closed ∧ State.reset.port.data = [] ∧
    State.reset.port.transportOk = false := by decide

theorem witness_UaCompletesTransmitterSetup :
    let s := holding 0x03#8 0x07#8 0x04#8 [] (inPhase .tSetup .transmitter)
    s.phase = .tSetup ∧ HoldsFrame s 0x03#8 0x07#8 [] := by decide

theorem witness_SetCompletesReceiverSetup :
    let s := holding 0x03#8 0x03#8 0x00#8 [] (inPhase .rSetup .receiver)
    s.phase = .rSetup ∧ HoldsFrame s 0x03#8 0x03#8 [] := by decide

theorem witness_DiscIsTakenWhereAwaited :
    let s := holding 0x01#8 0x0B#8 0x0A#8 [] (inPhase .tTeardown .transmitter)
    let t := holding 0x03#8 0x0B#8 0x08#8 [] (inPhase .rTeardownDisc .receiver)
    let u := holding 0x03#8 0x0B#8 0x08#8 [] (reading 0#1)
    (s.phase = .tTeardown ∧ HoldsFrame s 0x01#8 0x0B#8 []) ∧ (t.phase = .rTeardownDisc ∧ HoldsFrame t 0x03#8 0x0B#8 []) ∧
    (u.phase = .rRead ∧ HoldsFrame u 0x03#8 0x0B#8 []) := by decide

theorem witness_UaCompletesReceiverTeardown :
    let s := holding 0x01#8 0x07#8 0x06#8 [] (inPhase .rTeardownUa .receiver)
    s.phase = .rTeardownUa ∧ HoldsFrame s 0x01#8 0x07#8 [] := by decide

theorem witness_CloseBeginsOrEndsTeardown :
    State.reset.port.data = [] ∧
    (let s := inPhase .opened .transmitter; s.port.data = [] ∧ s.phase = .opened ∧ s.role = .transmitter) ∧
    (let s := inPhase .opened .receiver; s.port.data = [] ∧ s.phase = .opened ∧ s.role = .receiver ∧ s.discSeen = false) ∧
    (let s := { inPhase .opened .receiver with discSeen := true }
     s.port.data = [] ∧ s.phase = .opened ∧ s.role = .receiver ∧ s.discSeen = true) ∧
    (let s := inPhase .broken .transmitter; s.port.data = [] ∧ s.phase = .broken) := by decide

theorem witness_SetupExpiryResendsOrFails :
    let s := offered [.expiry] (inPhase .tSetup .transmitter)
    let t := { s with retry := 254#8, cfgMaxRetry := 255#8 }
    (s.events = .expiry :: [] ∧ s.timerArmed = true ∧ s.phase = .tSetup ∧ s.retry.toNat + 1 < s.cfgMaxRetry.toNat) ∧
    (t.events = .expiry :: [] ∧ t.timerArmed = true ∧ t.phase = .tSetup ∧ t.retry.toNat + 1 = t.cfgMaxRetry.toNat) := by decide

theorem witness_UnexpectedFramesAreIgnored :
    encode .ctlUa = .ctrl 0x07#8 ∧ ¬ Awaited (holding 0x01#8 0x07#8 0x06#8 [] (inPhase .tSetup .transmitter)) .ctlUa ∧
    encode .ctlI0 = .ctrl 0x00#8 ∧ ¬ Awaited (holding 0x01#8 0x00#8 0x01#8 [0x05#8, 0x05#8] (reading 0#1)) .ctlI0 := by
  unfold Awaited; decide

theorem witness_LongWriteIsRefused :
    let s := withData (List.replicate 17 0x00#8) (inPhase .opened .transmitter)
    s.phase = .opened ∧ s.role = .transmitter ∧ s.port.data.length = 17 ∧ s.par.maxPayload < 17 := by decide

theorem witness_WriteStoresAndSendsItsFrame :
    let s := withData (List.replicate 16 0x7E#8) (inPhase .opened .transmitter)
    s.par.ok ∧ s.txbuf.wf ∧ s.phase = .opened ∧ s.role = .transmitter ∧ s.port.data.length = 16 ∧ 16 ≤ s.par.maxPayload := by
  decide

theorem witness_AcceptCompletesWrite :
    let s := holding 0x03#8 0x85#8 0x86#8 [] waitAck
    let t := holding 0x03#8 0x05#8 0x06#8 [] { waitAck with ns := 1#1 }
    (s.phase = .tWaitAck ∧ s.ns = 0#1 ∧ HoldsFrame s 0x03#8 0x85#8 []) ∧
    (t.phase = .tWaitAck ∧ t.ns = 1#1 ∧ HoldsFrame t 0x03#8 0x05#8 []) := by decide

theorem witness_RejectRetransmits :
    let s := holding 0x03#8 0x01#8 0x02#8 [] waitAck
    let t := holding 0x03#8 0x81#8 0x82#8 [] { waitAck with ns := 1#1 }
    (s.phase = .tWaitAck ∧ s.ns = 0#1 ∧ HoldsFrame s 0x03#8 0x01#8 []) ∧
    (t.phase = .tWaitAck ∧ t.ns = 1#1 ∧ HoldsFrame t 0x03#8 0x81#8 []) := by decide

theorem witness_AckExpiryResendsOrBreaks :
    let s := offered [.expiry] waitAck
    let t := { s with retry := 0#8, cfgMaxRetry := 1#8 }
    (s.events = .expiry :: [] ∧ s.timerArmed = true ∧ s.phase = .tWaitAck ∧ s.retry.toNat + 1 < s.cfgMaxRetry.toNat) ∧
    (t.events = .expiry :: [] ∧ t.timerArmed = true ∧ t.phase = .tWaitAck ∧ t.retry.toNat + 1 = t.cfgMaxRetry.toNat) := by decide

theorem witness_OutstandingWriteKeepsItsFrame :
    waitAck.phase = .tWaitAck ∧
    step (offered [.cmd (word 4#32)] waitAck) = .next { waitAck with port := word 4#32, fault := true } := ⟨rfl, rfl⟩

theorem witness_CommandsFailAtTheKthTimeout :
    let s := offered [.expiry, .expiry, .expiry] waitAck
    let t := offered [.expiry] { inPhase .tSetup .transmitter with cfgMaxRetry := 1#8 }
    (s.timerArmed = true ∧ s.retry = 0#8 ∧ 1 ≤ s.cfgMaxRetry.toNat ∧
      s.events = List.replicate s.cfgMaxRetry.toNat .expiry ++ [] ∧ s.phase = .tWaitAck) ∧
    (t.timerArmed = true ∧ t.retry = 0#8 ∧ 1 ≤ t.cfgMaxRetry.toNat ∧
      t.events = List.replicate t.cfgMaxRetry.toNat .expiry ++ [] ∧ t.phase = .tSetup) := by decide

theorem witness_ReadBeginsWaiting :
    let s := withData [] (inPhase .opened .receiver)
    s.phase = .opened ∧ s.role = .receiver ∧ s.port.data = [] := by decide

/-- For nr = 0 and nr = 1: both information codes. -/
theorem witness_NewFrameIsDelivered :
    ∀ n : Bit, let s := holding 0x03#8 (infoCode n) (0x03#8 ^^^ infoCode n) [0x01#8, 0x01#8] (reading n)
      s.par.ok ∧ s.phase = .rRead ∧ HoldsFrame s 0x03#8 (infoCode s.nr) [0x01#8, 0x01#8] ∧
      destuff s.par [0x01#8, 0x01#8] (s.par.maxPayload + 1) = .ok ([0x01#8] ++ [pcs [0x01#8]]) := by decide

theorem witness_DuplicateIsAcknowledgedAgain :
    let s := holding 0x03#8 0x00#8 0x03#8 [0x00#8] (reading 1#1)
    s.phase = .rRead ∧ HoldsFrame s 0x03#8 (infoCode (s.nr ^^^ 1#1)) [0x00#8] ∧
    destuff s.par [0x00#8] (s.par.maxPayload + 1) = .ok ([] ++ [pcs []]) := by decide

theorem witness_BadInfoFramesDrawRej :
    let s := holding 0x03#8 0x00#8 0x03#8 [0x01#8, 0x7D#8] (reading 0#1)
    let t := holding 0x03#8 0x00#8 0x03#8 [] (reading 0#1)
    let u := holding 0x03#8 0x00#8 0x03#8 [0x01#8, 0x02#8] (reading 0#1)
    (s.phase = .rRead ∧ s.parser.pbcc ≠ s.parser.pa ^^^ infoCode 1#1) ∧
    (HoldsFrame s 0x03#8 (infoCode 0#1) [0x01#8, 0x7D#8] ∧
      destuff s.par [0x01#8, 0x7D#8] (s.par.maxPayload + 1) = .error (.malformedEscape 1)) ∧
    (HoldsFrame t 0x03#8 (infoCode 0#1) [] ∧ destuff t.par [] (t.par.maxPayload + 1) = .ok []) ∧
    (HoldsFrame u 0x03#8 (infoCode 0#1) [0x01#8, 0x02#8] ∧
      destuff u.par [0x01#8, 0x02#8] (u.par.maxPayload + 1) = .ok ([0x01#8] ++ [0x02#8]) ∧ pcs [0x01#8] ≠ 0x02#8) := by decide

theorem witness_OversizedFrameEndsRead :
    let s := holding 0x03#8 0x00#8 0x03#8 (List.replicate 18 0x01#8) (reading 0#1)
    s.phase = .rRead ∧ HoldsFrame s 0x03#8 (infoCode 0#1) (List.replicate 18 0x01#8) ∧
    destuff s.par (List.replicate 18 0x01#8) (s.par.maxPayload + 1) = .error (.bufferExhausted 18) := by decide

theorem witness_FramedPayloadIsDelivered :
    let f := [0x7E#8, 0x03#8, 0x00#8, 0x03#8, 0x41#8, 0x41#8, 0x7E#8]
    let s := { offered (reads 7) (reading 0#1) with rxQueue := f }
    s.par.ok ∧ [0x41#8].length ≤ s.par.maxPayload ∧ s.phase = .rRead ∧ s.parser.ps = .idle ∧ s.parser.rawbuf.wf ∧
    buildI s.par s.nr [0x41#8] = .ok f ∧ s.rxQueue = f ++ [] ∧ s.events = reads f.length ++ [] := by decide

theorem witness_FramedPayloadIsDelivered_sawAddress :
    let f := [0x7E#8, 0x03#8, 0x40#8, 0x43#8, 0x00#8, 0x7E#8]
    let r := offered (reads 6) (reading 1#1)
    let s := { r with rxQueue := f ++ [0x55#8], parser := { r.parser with ps := .sawAddress } }
    s.par.ok ∧ 0 ≤ s.par.maxPayload ∧ s.phase = .rRead ∧ s.parser.ps = .sawAddress ∧ s.parser.rawbuf.wf ∧
    buildI s.par s.nr [] = .ok f ∧ s.rxQueue = f ++ [0x55#8] ∧ s.events = reads f.length ++ [] := by decide

theorem witness_DuplicateIsDeliveredOnce :
    let f := [0x7E#8, 0x03#8, 0x00#8, 0x03#8, 0x41#8, 0x41#8, 0x7E#8]
    let s := { offered (reads 7 ++ [plainCommand 0x00000003#32 []] ++ reads 7) (reading 0#1) with rxQueue := f ++ f }
    s.par.ok ∧ [0x41#8].length ≤ s.par.maxPayload ∧ s.phase = .rRead ∧ s.role = .receiver ∧ s.parser.ps = .idle ∧
    s.parser.rawbuf.wf ∧ buildI s.par s.nr [0x41#8] = .ok f ∧ s.rxQueue = f ++ f ++ [] ∧
    s.events = reads f.length ++ [plainCommand 0x00000003#32 []] ++ reads f.length ++ [] := by decide

theorem witness_CodecCommandsAnswer :
    let s := withData [0x7E#8, 0x41#8] State.reset
    let t := withData (List.replicate 9 0x7E#8) State.reset
    let u := withData [0x7D#8] State.reset
    let v := withData (List.replicate 17 0x01#8) State.reset
    (s.phase.busy = false ∧ s.port.data.length = 2 ∧
      stuff s.par s.port.data s.par.unitCap = .ok [0x7D#8, 0x5E#8, 0x41#8] ∧
      destuff s.par s.port.data s.par.unitCap = .ok [0x7E#8, 0x41#8]) ∧
    stuff t.par t.port.data t.par.unitCap = .error (.bufferExhausted 8) ∧
    destuff u.par u.port.data u.par.unitCap = .error (.malformedEscape 0) ∧
    destuff v.par v.port.data v.par.unitCap = .error (.bufferExhausted 17) := by decide

theorem witness_ChecksumCommandsAnswer : (withData [] State.reset).phase.busy = false ∧ (withData [] State.reset).port.data = [] := by
  decide

theorem witness_StatusPortLayout : 5 ≤ 5 ∧ (inPhase .broken .transmitter).phase = .broken ∧ State.reset.parser.ps = .idle := by decide

theorem witness_ResetIsSound : ({ Params.default with maxPayload := 1, rawCap := 4, txbufCap := 9 } : Params).ok := by decide

/-- A sound state with a WRITE outstanding, and a step of it (StepKeepsInvariant, SoundStatesNeverStop,
TransportIsClosedOncePerOpen). -/
theorem witness_sound : waitAck.Inv where
  parOk := by decide
  notDone := by decide
  idlePos := by decide
  address := by decide
  control := by decide
  rawLen := by decide
  rawOfS := by decide
  rawBuf := by decide
  dstBuf := by decide
  txBuf := by decide
  unitBuf := by decide
  txLen := by decide
  timer := by decide
  budget := by decide
  limit := by decide
  roleTx := by decide
  roleRx := by decide
  transport := by decide
  disc := by decide
  held := fun _ => ⟨[0x01#8], by decide⟩

theorem witness_StepKeepsInvariant : waitAck.Inv ∧ step waitAck = .next waitAck := ⟨witness_sound, rfl⟩

theorem witness_TransportIsClosedOncePerOpen :
    { waitAck with outputs := [.transportOpen 0 0 true] }.transportBalanced ∧
    step { waitAck with outputs := [.transportOpen 0 0 true] } = .next { waitAck with outputs := [.transportOpen 0 0 true] } :=
  ⟨by decide, rfl⟩

/-- A step that writes the configuration, ns, nr and retry: OPEN from reset (ConfigurationIsWrittenByOpenOnly,
SequenceBitsAreWrittenAsStated, RetryCountsElapsedTimeouts, EachCommandGetsOneResponse, OutputsAreOnlyAppended). -/
theorem witness_step_open :
    seen (step (offered [.cmd { word 0x00000301#32 with transportOk := true }] State.reset)) =
      some (.tSetup, [.transportOpen 0 0 true, .frame [0x7E#8, 0x03#8, 0x03#8, 0x00#8, 0x7E#8]], 0x00000481#32) := by decide

/-- A step that toggles ns, leaves a busy phase and gives the response: RR1 in T_WAIT_ACK. -/
theorem witness_step_accept :
    seen (step { holding 0x03#8 0x85#8 0x86#8 [] (offered [.rxByte] waitAck) with
        rxQueue := [0x7E#8], parser := { ps := .inPayload, pa := 0x03#8, pc := 0x85#8, pbcc := 0x86#8, rawbuf := [], rawlen := 0 } }) =
      some (.opened, [.response 0x00010000#32 []], 0x00000423#32) := by decide

/-- A step from an idle phase to an idle phase that gives the response: PCS of one byte in CLOSED. -/
theorem witness_step_unit :
    seen (step (offered [.cmd { word 0x0001000B#32 with data := [0x41#8] }] State.reset)) =
      some (.closed, [.response 0x00010000#32 [0x41#8]], 0x00000000#32) := by decide

/-- Two cores that have sent nothing. -/
def twoCores (a b : State) : System := { a := a, b := b, aFates := [], bFates := [] }

theorem settled_twoCores {a b : State} (ha : a.outputs = []) (hb : b.outputs = []) : (twoCores a b).settled perfectBoth := by
  intro src
  cases src <;> simp [twoCores, System.fates, System.sent, bytesSent, framesSent, Channel.perfect, ha, hb]

theorem witness_TwoCoresConnect :
    let y := twoCores State.reset State.reset
    (1 ≤ 3 ∧ 3 < 256 ∧ y.a.phase = .closed ∧ y.b.phase = .closed ∧ y.a.rxQueue = [] ∧ y.b.rxQueue = []) ∧
    y.settled perfectBoth := ⟨by decide, settled_twoCores rfl rfl⟩

theorem witness_PayloadCrossesAPerfectChannel :
    let y := twoCores (inPhase .opened .transmitter) (inPhase .opened .receiver)
    (y.a.par = y.b.par ∧ y.a.par.ok ∧ [0x11#8, 0x7E#8, 0x7D#8, 0x22#8].length ≤ y.a.par.maxPayload ∧ y.a.phase = .opened ∧
      y.b.phase = .opened ∧ y.a.role = .transmitter ∧ y.b.role = .receiver ∧ y.a.ns = y.b.nr ∧ y.a.rxQueue = [] ∧
      y.b.rxQueue = [] ∧ y.b.parser.rawbuf.wf ∧
      buildI y.a.par y.a.ns [0x11#8, 0x7E#8, 0x7D#8, 0x22#8] =
        .ok [0x7E#8, 0x03#8, 0x00#8, 0x03#8, 0x11#8, 0x7D#8, 0x5E#8, 0x7D#8, 0x5D#8, 0x22#8, 0x30#8, 0x7E#8]) ∧
    y.settled perfectBoth := ⟨by decide, settled_twoCores rfl rfl⟩

theorem witness_TwoCoresDisconnect :
    let y := twoCores (inPhase .opened .transmitter) (inPhase .opened .receiver)
    (y.a.phase = .opened ∧ y.b.phase = .opened ∧ y.a.role = .transmitter ∧ y.b.role = .receiver ∧ y.b.discSeen = false ∧
      y.a.rxQueue = [] ∧ y.b.rxQueue = []) ∧
    y.settled perfectBoth := ⟨by decide, settled_twoCores rfl rfl⟩

/-! ### The channel (R327; 95, P6) -/

/-- The receiver of P6 when it has sent UA@03 and the first RR1. -/
def sentRr1 : System :=
  { twoCores State.reset { State.reset with outputs := [.frame uaFrameT, .frame (rrFrame 1#1)] } with
    bFates := uaFrameT.map some }

/-- P6: "the channel loses the first RR1": bytes 5 to 9 of what the receiver sends. -/
def losesFirstRr1 : Channel := Channel.stated ((List.range' 5 5).map fun i => (i, none))

theorem test_channel_losesFirstRr1 :
    sentRr1.allows (fun _ => losesFirstRr1) (.carry .b (List.replicate 5 none)) ∧
    sentRr1.move (.carry .b (List.replicate 5 none)) = .next { sentRr1 with bFates := sentRr1.bFates ++ List.replicate 5 none } :=
  ⟨⟨[], by decide, by unfold losesFirstRr1 Channel.stated; decide⟩, rfl⟩

theorem test_channel_perfectDelivers : ¬ sentRr1.allows perfectBoth (.carry .b (List.replicate 5 none)) := by
  rintro ⟨rest, -, h⟩
  have h5 := congrArg (fun fs : List Fate => fs[5]?) h
  exact absurd h5 (by simp [sentRr1, twoCores, System.fates, System.sent, uaFrameT, buildS, bytesSent, framesSent, rrFrame])

/-- R331: arrivals and reads that are still offered leave an idle core quiescent. -/
theorem test_quiescent : (offered [.arrive [0x7E#8], .rxByte] State.reset).quiescent ∧
    ¬ (offered [.rxByte, .cmd Command.none] State.reset).quiescent := by decide

end Sys2Proof.Tests
end

namespace Sys2Proof.Scope

open Sys2Proof.Machine Sys2Proof.Laws

/-! ### The payload checksum (R151, R156, R157) -/

@[simp] theorem pcs_nil : pcs [] = 0x00#8 := rfl

/-- A fold of XOR that starts at `a` is `a` XOR the checksum. -/
theorem foldl_xor_eq_xor_pcs (a : Byte) (p : List Byte) : p.foldl (· ^^^ ·) a = a ^^^ pcs p := by
  induction p generalizing a with
  | nil => simp
  | cons b p ih => rw [pcs, List.foldl_cons, List.foldl_cons, ih, ih, BitVec.zero_xor, BitVec.xor_assoc]

@[simp] theorem pcs_cons (b : Byte) (p : List Byte) : pcs (b :: p) = b ^^^ pcs p := by
  rw [pcs, List.foldl_cons, foldl_xor_eq_xor_pcs, BitVec.zero_xor]

@[simp] theorem pcs_append (p q : List Byte) : pcs (p ++ q) = pcs p ^^^ pcs q :=
  List.foldl_append.trans (foldl_xor_eq_xor_pcs _ q)

/-- R151: a payload with its checksum folds to 0x00. -/
theorem pcs_append_pcs (p : List Byte) : pcs (p ++ [pcs p]) = 0x00#8 := by simp

/-- R156: the order of the bytes does not matter, since XOR is associative and commutative. -/
theorem pcs_perm {p q : List Byte} (h : p.Perm q) : pcs p = pcs q :=
  h.foldl_eq (rcomm := ⟨fun a b c => by rw [BitVec.xor_assoc, BitVec.xor_comm b c, ← BitVec.xor_assoc]⟩) _

/-- R157: one changed byte changes the checksum. -/
theorem pcs_middle_inj (p q : List Byte) (a b : Byte) : pcs (p ++ a :: q) = pcs (p ++ b :: q) ↔ a = b := by
  rw [pcs_append, pcs_append, pcs_cons, pcs_cons, BitVec.xor_right_inj, BitVec.xor_left_inj]

/-- Settles O15, one law of the fold at a time. -/
theorem payloadChecksumLaws : Obligations.PayloadChecksumLaws := fun p q =>
  ⟨pcs_append p q, pcs_append_pcs p, pcs_nil, pcs_perm, pcs_middle_inj p q⟩

/-! ### Stuffing and destuffing (R130, R131, R133, R134) -/

theorem stuffPiece_delim (par : Params) : stuffPiece par delim = [escByte, par.escFlagMark] := by simp [stuffPiece]

theorem stuffPiece_escByte (par : Params) : stuffPiece par escByte = [escByte, par.escEscMark] := by
  simp [stuffPiece, delim, escByte]

theorem stuffPiece_plain (par : Params) {b : Byte} (hd : b ≠ delim) (he : b ≠ escByte) : stuffPiece par b = [b] := by
  simp [stuffPiece, hd, he]

theorem unescape_escFlagMark (par : Params) : unescape par par.escFlagMark = some delim := by simp [unescape]

theorem unescape_escEscMark {par : Params} (h : par.markersOk) : unescape par par.escEscMark = some escByte := by
  obtain ⟨-, -, hne⟩ := h
  simp [unescape, hne.symm]

/-- R133: legal markers keep the delimiter out of every piece, and so out of the stuffed region. -/
theorem delim_notMem_stuffPiece {par : Params} (h : par.markersOk) (b : Byte) : delim ∉ stuffPiece par b := by
  obtain ⟨hf : par.escFlagMark ≠ delim, he : par.escEscMark ≠ delim, -⟩ := h
  have hd : delim ≠ escByte := by decide
  unfold stuffPiece
  split_ifs with h1 h2
  · simpa [hd] using hf.symm
  · simpa [hd] using he.symm
  · simpa [eq_comm] using h1

theorem delim_notMem_stuffed {par : Params} (h : par.markersOk) (x : List Byte) :
    delim ∉ x.flatMap (stuffPiece par) := by
  simp [List.mem_flatMap, delim_notMem_stuffPiece h]

/-- One step of the round trip: a scan over a piece puts back the byte the piece stands for. -/
theorem destuffFrom_stuffPiece {par : Params} (h : par.markersOk) {cap n : Nat} (hn : n < cap) (i : Nat) (b : Byte)
    (y : List Byte) :
    ∃ j, destuffFrom par cap i n (stuffPiece par b ++ y) = prepend [b] (destuffFrom par cap j (n + 1) y) := by
  have hc : ¬ cap < n + 1 := by omega
  by_cases hd : b = delim
  · subst hd
    rw [stuffPiece_delim]
    exact ⟨i + 2, by simp [destuffFrom_pair (unescape_escFlagMark par), hc]⟩
  by_cases he : b = escByte
  · subst he
    rw [stuffPiece_escByte]
    exact ⟨i + 2, by simp [destuffFrom_pair (unescape_escEscMark h), hc]⟩
  · rw [stuffPiece_plain par hd he]
    exact ⟨i + 1, by simp [destuffFrom_plain he, hc]⟩

/-- R134 for a scan with `n` bytes already in the output. -/
theorem destuffFrom_stuffed {par : Params} (h : par.markersOk) {cap : Nat} (x : List Byte) {i n : Nat}
    (hn : n + x.length ≤ cap) : destuffFrom par cap i n (x.flatMap (stuffPiece par)) = .ok x := by
  induction x generalizing i n with
  | nil => rfl
  | cons b x ih =>
    rw [List.length_cons] at hn
    obtain ⟨j, e⟩ := destuffFrom_stuffPiece h (show n < cap by omega) i b (x.flatMap (stuffPiece par))
    rw [List.flatMap_cons, e, ih (by omega)]
    rfl

/-- R134: destuffing a stuffed sequence gives it back, whenever the capacity holds it. -/
theorem destuff_stuffed {par : Params} (h : par.markersOk) {cap : Nat} {x : List Byte} (hx : x.length ≤ cap) :
    destuff par (x.flatMap (stuffPiece par)) cap = .ok x :=
  destuffFrom_stuffed h x (by omega)

theorem length_le_stuffed (par : Params) (x : List Byte) : x.length ≤ (x.flatMap (stuffPiece par)).length := by
  induction x with
  | nil => simp
  | cons b x ih =>
    have := stuffPiece_length_pos (par := par) b
    simp only [List.flatMap_cons, List.length_append, List.length_cons]; omega

/-! ### Information frames (R97, R161) -/

@[simp] theorem infoBody_length (p : List Byte) : (infoBody p).length = p.length + 1 := by simp [infoBody]

theorem ctrlI_eq_infoCode (s : Bit) : ctrlI s = Claims.infoCode s := by revert s; decide

/-- Settles O17: the region is the stuffed body, whose length, bytes and destuffing R135, R133 and R134 give. -/
theorem infoFramesHaveTheirForm : Obligations.InfoFramesHaveTheirForm := by
  intro par s p hpar hp
  have ⟨_, _, _, _, hm⟩ := hpar
  have hlow := length_le_stuffed par (infoBody p)
  have hhigh := stuffed_length_le par (infoBody p)
  rw [infoBody_length] at hlow hhigh
  refine ⟨(infoBody p).flatMap (stuffPiece par), ?_, by omega, hhigh, delim_notMem_stuffed hm _, ?_⟩
  · rw [buildI_legal s hpar hp, infoFrame, ctrlI_eq_infoCode]
    rfl
  · exact destuff_stuffed hm (by rw [infoBody_length, Params.dstCap]; omega)

/-! ### Reset (R56, R340) -/

/-- The reset state is CLOSED and Idle with empty buffers, so every clause but the parameters' is a fact about CLOSED,
Idle or an empty buffer. -/
theorem resetWith_inv {par : Params} (h : par.ok) : (State.resetWith par).Inv where
  parOk := h
  notDone := by simp [State.resetWith]
  idlePos _ := rfl
  address := by simp [State.resetWith]
  control := by simp [State.resetWith]
  rawLen := Nat.zero_le _
  rawOfS _ _ := rfl
  rawBuf := ⟨memory_wf_nil, memory_within_nil _⟩
  dstBuf := ⟨memory_wf_nil, memory_within_nil _⟩
  txBuf := ⟨memory_wf_nil, memory_within_nil _⟩
  unitBuf := ⟨memory_wf_nil, memory_within_nil _⟩
  txLen := Nat.zero_le _
  timer := by simp [State.resetWith]
  budget := by simp [State.resetWith]
  limit hc := absurd rfl hc
  roleTx := by simp [State.resetWith]
  roleRx := by simp [State.resetWith]
  transport := by simp [State.resetWith]
  disc := by simp [State.resetWith]
  held := nofun

theorem params_default_ok : Params.default.ok := by decide

/-- Settles O49: the general fact, at the model's own parameters too. -/
theorem resetIsSound : Obligations.ResetIsSound := ⟨fun _ => resetWith_inv, resetWith_inv params_default_ok⟩

/-! ### Outputs are only appended (R10, R17) -/

@[simp] theorem respond_outputs (c : ResultCode) (n : Nat) (d : List Byte) (s : State) :
    (respond c n d s).outputs = s.outputs ++ [.response (respWord (s.respLen n) c) d] := rfl

@[simp] theorem transportOpen_outputs (s : State) :
    (transportOpen s).outputs = s.outputs ++ [.transportOpen s.cfgPort s.cfgBaud s.port.transportOk] := rfl

/-- Each verdict of the receiver sends one frame, or ends READ, or does both (R266 to R271). -/
theorem actOn_outputs_prefix (v : Verdict) (s : State) : s.outputs <+: (actOn v s).outputs := by
  cases v with
  | reject | corrupt | duplicate => exact List.prefix_append ..
  | fresh p => simp [actOn, deliver]

/-- An instruction's rule only appends outputs: it is built from operations that leave them alone or append one event. -/
theorem took_outputs_prefix {i : Instr} {s t : State} (h : Took i s t) : s.outputs <+: t.outputs := by
  cases h with
  | violate | ignore | closeRx | read => exact List.prefix_rfl
  | closeTx | closeRxSeen | setupAcknowledged | teardownReceived | disconnectRequested | writeRefused | writeSent |
    writeAccepted | writeRejected | rejected | corrupt | unitOutput | unitAnswer => exact List.prefix_append ..
  | openFailed => simp [openFailed, openInit]
  | openTx => simp [openTransmitter, openInit]
  | openRx => simp [openReceiver, openInit]
  | closeBroken => simp [closeBroken]
  | setupReceived => simp [setupReceived]
  | teardownAcknowledged => simp [teardownAcknowledged]
  | teardownAnswered => simp [teardownAnswered]
  | judged => exact (actOn_outputs_prefix _ { idleParser s with dstbuf := _ } :)

/-- Settles O56, over the ways a step goes on: an instruction's rule, an expiry's rule, or no output at all. -/
theorem outputsAreOnlyAppended : Obligations.OutputsAreOnlyAppended := by
  intro s t h
  suffices hp : s.outputs <+: t.outputs from hp.imp fun _ e => e.symm
  cases step_stepped h with
  | wait | notEnabled | arrival | badWord | byte => exact List.prefix_rfl
  | command c es i t _ _ ht => exact (took_outputs_prefix ht :)
  | frame q es i t _ _ _ _ _ ht => exact (took_outputs_prefix ht :)
  | setupResend | writeResend => exact List.prefix_append ..
  | setupExhausted => simp [setupExhausted]
  | writeExhausted => simp [writeExhausted]

/-! ### A core takes inputs (R180 to R199, R210) -/

/-- Inputs taken one after another lead a core from one state to another. -/
inductive Takes : List Input → State → State → Prop where
  | nil (s : State) : Takes [] s s
  | cons {e : Input} {es : List Input} {s t u : State} : s.offer e = .next t → Takes es t u → Takes (e :: es) s u

theorem Takes.append {es fs : List Input} {s t u : State} (h : Takes es s t) (h' : Takes fs t u) : Takes (es ++ fs) s u := by
  induction h with
  | nil => exact h'
  | cons ho _ ih => exact .cons ho (ih h')

theorem offer_eq (e : Input) (s : State) : s.offer e = takeEvent e.event s := rfl

theorem offer_cmd {c : Command} {s : State} {i : Instr} (h : decodeCmd c.word = .ok i) :
    s.offer (.cmd c) = exec i { s with port := c } := by
  rw [offer_eq]
  simp [Input.event, takeEvent, takeCommand, h]

/-- One byte that moves the parser to `p` without ending a frame. -/
theorem offer_byte {s : State} {b : Byte} {q : List Byte} {p : Parser} (hb : s.phase.busy = true)
    (hq : s.rxQueue = b :: q) (hd : s.parser.ps ≠ .done) (hc : Captured s.parser)
    (hp : (parseByte s.par s.phase s.parser b).parser = p) (hn : p.ps ≠ .done) :
    s.offer .rxByte = .next { s with rxQueue := q, parser := p } := by
  subst hp
  exact step_byte (s := { s with events := .rxByte :: s.events }) rfl hb hq hd hc hn

/-- The closing delimiter runs the captured control byte's instruction (R193, R199). -/
theorem offer_delim {s : State} {q : List Byte} {i : Instr} (hb : s.phase.busy = true) (hq : s.rxQueue = delim :: q)
    (hp : s.parser.ps = .inPayload) (hi : decodeCtrl s.parser.pc = .ok i) :
    s.offer .rxByte = exec i { s with rxQueue := q, parser := { s.parser with ps := .done } } := by
  have hc : captureBroken s.parser = false := captured_not_broken fun _ => (decodeCtrl_ok_iff _).mp ⟨i, hi⟩
  rw [offer_eq]
  simp [Input.event, takeEvent, takeRx, hb, hq, takeByte, hc, parseByte, parsePayload, Parsed.to, hp, runFrame, hi]

/-- The parser before the closing delimiter of a frame with an empty region. -/
def atDelimiter (a c : Byte) (p : Parser) : Parser :=
  { p with ps := .inPayload, pa := a, pc := c, pbcc := hcs a c, rawlen := 0 }

/-- No header byte is the delimiter (R98). -/
theorem header_ne_delim : ∀ a ∈ addrSet, ∀ c ∈ sCtrl ++ iCtrl, a ≠ delim ∧ c ≠ delim ∧ hcs a c ≠ delim := by decide

section Slots

variable {par : Params} {ph : Phase} {p : Parser} {b : Byte}

theorem parseByte_start (h : p.ps = .idle) : (parseByte par ph p delim).parser = { p with ps := .sawAddress } := by
  simp [parseByte, h, parseIdle, Parsed.to]

theorem parseByte_address (h : p.ps = .sawAddress) (hd : b ≠ delim) (ha : b ∈ addrSet) :
    (parseByte par ph p b).parser = { p with pa := b, ps := .sawControl } := by
  simp [parseByte, h, parseAddress, Parsed.to, hd, ha]

theorem parseByte_control (h : p.ps = .sawControl) (hd : b ≠ delim) (hc : b ∈ ctrlSet ph) :
    (parseByte par ph p b).parser = { p with pc := b, ps := .sawChecksum } := by
  simp [parseByte, h, parseControl, Parsed.to, hd, hc]

theorem parseByte_checksum (h : p.ps = .sawChecksum) (hd : b ≠ delim) :
    (parseByte par ph p b).parser = { p with pbcc := b, rawlen := 0, ps := .inPayload } := by
  simp [parseByte, h, parseChecksum, Parsed.to, hd]

end Slots

/-- Before the control slot is filled nothing is asked of `pc`. -/
theorem captured_of_early {p : Parser} (h : p.ps = .idle ∨ p.ps = .sawAddress ∨ p.ps = .sawControl) : Captured p := by
  rcases h with h | h | h <;> simp [Captured, h]

/-- The four bytes before the closing delimiter fill the parser's slots, one by one (R183, R186, R189, R192). -/
theorem takes_header {s : State} {a c : Byte} {q : List Byte} (hb : s.phase.busy = true) (hp : s.parser.ps = .idle)
    (ha : a ∈ addrSet) (hc : c ∈ ctrlSet s.phase) (hq : s.rxQueue = [delim, a, c, hcs a c] ++ q) :
    Takes (List.replicate 4 .rxByte) s { s with rxQueue := q, parser := atDelimiter a c s.parser } := by
  obtain ⟨hda, hdc, hdx⟩ := header_ne_delim a ha c (ctrlSet_sub hc)
  have start := offer_byte hb hq (by simp [hp]) (captured_of_early (.inl hp)) (parseByte_start hp) nofun
  refine .cons start ?_
  refine .cons (offer_byte hb rfl nofun (captured_of_early (.inr (.inl rfl))) (parseByte_address rfl hda ha) nofun) ?_
  refine .cons (offer_byte hb rfl nofun (captured_of_early (.inr (.inr rfl))) (parseByte_control rfl hdc hc) nofun) ?_
  exact .cons (offer_byte hb rfl nofun (fun _ => ctrlSet_sub hc) (parseByte_checksum rfl hdx) nofun) (.nil _)

/-- The core that has read a frame with an empty region and `q` after it, when it runs the frame's instruction. -/
def atDone (a c : Byte) (q : List Byte) (s : State) : State :=
  { s with rxQueue := q, parser := { atDelimiter a c s.parser with ps := .done } }

/-- Reading a whole frame with an empty region from Idle is running its instruction (R193, R197, R199). -/
theorem takes_frame {s t : State} {a c : Byte} {q : List Byte} {i : Instr} (hb : s.phase.busy = true)
    (hp : s.parser.ps = .idle) (ha : a ∈ addrSet) (hc : c ∈ ctrlSet s.phase) (hq : s.rxQueue = buildS a c ++ q)
    (hi : decodeCtrl c = .ok i) (ht : exec i (atDone a c q s) = .next t) :
    Takes (List.replicate (buildS a c).length .rxByte) s t := by
  have header := takes_header (q := delim :: q) hb hp ha hc hq
  have closing := offer_delim (s := { s with rxQueue := delim :: q, parser := atDelimiter a c s.parser }) hb rfl rfl hi
  exact header.append (.cons (closing.trans ht) (.nil t))

/-- At its Done step a frame read whole passes the test of a consumer that waits for it. -/
theorem atDone_takes (a c : Byte) (q : List Byte) (s : State) : (atDone a c q s).takes a c = true :=
  (takes_iff _ a c).mpr ⟨rfl, rfl, rfl⟩

/-- A Receiver in R_SETUP reads SET@03 and answers UA@03 (R218). -/
theorem takes_set {s : State} {q : List Byte} (hp : s.phase = .rSetup) (hi : s.parser.ps = .idle)
    (hq : s.rxQueue = setFrame ++ q) :
    Takes (List.replicate setFrame.length .rxByte) s (setupReceived (idleParser (atDone addrT codeSet q s))) := by
  refine takes_frame (i := .ctlSet) (by rw [hp]; rfl) hi (by decide) (by rw [hp]; decide) hq rfl ?_
  have hd : (atDone addrT codeSet q s).phase = .rSetup := hp
  simp only [exec, execCtlSet, hd, atDone_takes, decide_true, Bool.and_self, if_true]

/-- A Transmitter in T_SETUP reads UA@03 (R213). -/
theorem takes_ua {s : State} {q : List Byte} (hp : s.phase = .tSetup) (hi : s.parser.ps = .idle)
    (hq : s.rxQueue = uaFrameT ++ q) :
    Takes (List.replicate uaFrameT.length .rxByte) s (setupAcknowledged (idleParser (atDone addrT codeUa q s))) := by
  refine takes_frame (i := .ctlUa) (by rw [hp]; rfl) hi (by decide) (by rw [hp]; decide) hq rfl ?_
  have hd : (atDone addrT codeUa q s).phase = .tSetup := hp
  simp only [exec, execCtlUa, hd, atDone_takes, decide_true, Bool.and_self, if_true]

/-- The word of an OPEN decodes to it (R103, R104). -/
theorem decodeCmd_openWord (r : Role) {k : Nat} (hk : k < 256) :
    decodeCmd (cmdWord 0#16 (BitVec.ofNat 8 k) r.code 0x1#4) = .ok (.hostOpen r k) := by
  simp [decodeCmd, whenUnusedZero, Nat.mod_eq_of_lt hk]

/-- The core after an accepted OPEN presented as `c` (R210). -/
def afterOpen (r : Role) (k : Nat) (c : Command) (s : State) : State :=
  openAnswered (transportOpen (openInit r (BitVec.ofNat 8 k) { s with port := c }))

theorem ofNat_byte_ne_zero {k : Nat} (h1 : 1 ≤ k) (h : k < 256) : BitVec.ofNat 8 k ≠ 0#8 := by
  rw [ne_eq, ← BitVec.toNat_inj, BitVec.toNat_ofNat, BitVec.toNat_ofNat]
  omega

/-- A CLOSED core accepts OPEN, of role Transmitter with k ≥ 1 (R210, R312 d). -/
theorem offer_open {s : State} {r : Role} {k : Nat} {c : Command} (hp : s.phase = .closed) (hk : k < 256)
    (hr : r = .receiver ∨ 1 ≤ k) (hw : c.word = cmdWord 0#16 (BitVec.ofNat 8 k) r.code 0x1#4) (hd : c.data = []) :
    s.offer (.cmd c) = .next (afterOpen r k c s) := by
  have ha : openAccepted r (BitVec.ofNat 8 k) { s with port := c } = true :=
    (openAccepted_iff ..).mpr ⟨hp, hr.imp_right (ofNat_byte_ne_zero · hk), by rw [hd]; rfl⟩
  rw [offer_cmd (hw ▸ decodeCmd_openWord r hk), exec, execHostOpen, if_pos ha, afterOpen]

/-! ### Two cores take moves (R326, R327) -/

/-- Moves the channels allow lead a system from one state to another. -/
inductive Conducts (ch : Side → Channel) : List Move → System → System → Prop where
  | nil (y : System) : Conducts ch [] y y
  | cons {m : Move} {ms : List Move} {y z w : System} : y.allows ch m → y.move m = .next z → Conducts ch ms z w →
      Conducts ch (m :: ms) y w

section Conducted

variable {ch : Side → Channel} {ms ns : List Move} {y z w : System}

theorem Conducts.append (h : Conducts ch ms y z) (h' : Conducts ch ns z w) : Conducts ch (ms ++ ns) y w := by
  induction h with
  | nil => exact h'
  | cons ha hm _ ih => exact .cons ha hm (ih h')

theorem Conducts.conforms (h : Conducts ch ms y z) : System.conforms ch ms y := by
  induction h with
  | nil => trivial
  | cons ha hm _ ih => exact (conforms_cons hm).mpr ⟨ha, ih⟩

theorem Conducts.run (h : Conducts ch ms y z) : System.run ms y = .next z := by
  induction h with
  | nil => rfl
  | cons _ hm _ ih => exact (run_cons_move hm).trans ih

end Conducted

/-- One core of a system. -/
def coreOf (y : System) : Side → State
  | .a => y.a
  | .b => y.b

/-- The system with that core in another state. -/
def withCore (y : System) (s : State) : Side → System
  | .a => { y with a := s }
  | .b => { y with b := s }

theorem conducts_offer {ch : Side → Channel} {y : System} {s : State} {e : Input} (side : Side)
    (h : (coreOf y side).offer e = .next s) : Conducts ch [.offer side e] y (withCore y s side) := by
  cases side with
  | a => exact .cons trivial (move_offer_a h) (.nil _)
  | b => exact .cons trivial (move_offer_b h) (.nil _)

@[simp] theorem coreOf_withCore (y : System) (s : State) (side : Side) : coreOf (withCore y s side) side = s := by
  cases side <;> rfl

@[simp] theorem withCore_withCore (y : System) (s t : State) (side : Side) :
    withCore (withCore y s side) t side = withCore y t side := by
  cases side <;> rfl

@[simp] theorem withCore_coreOf (y : System) (side : Side) : withCore y (coreOf y side) side = y := by
  cases side <;> rfl

/-- What a core takes by itself it takes in the system too. -/
theorem conducts_offers {ch : Side → Channel} {es : List Input} {s t : State} (h : Takes es s t) (y : System) (side : Side)
    (hs : coreOf y side = s) : Conducts ch (es.map (.offer side)) y (withCore y t side) := by
  induction h generalizing y with
  | nil s => subst hs; rw [withCore_coreOf]; exact .nil y
  | @cons e es s t u ho _ ih =>
    subst hs
    have rest := ih (withCore y t side) (coreOf_withCore y t side)
    rw [withCore_withCore] at rest
    exact (conducts_offer side ho).append rest

/-- The core at the other end of a side's channel. -/
def other : Side → Side
  | .a => .b
  | .b => .a

/-- The system after the bytes `f` have crossed from `src` unchanged. -/
def carried (y : System) (f : List Byte) : Side → System
  | .a => { y with b := y.b.receive f, aFates := y.aFates ++ f.map some }
  | .b => { y with a := y.a.receive f, bFates := y.bFates ++ f.map some }

theorem move_carry (y : System) (f : List Byte) (src : Side) :
    y.move (.carry src (f.map some)) = .next (carried y f src) := by
  cases src <;> simp [System.move, carried]

/-- Over perfect channels a system is settled when each side's fates are its bytes, unchanged. -/
theorem settled_perfect_iff (y : System) :
    y.settled Claims.perfectBoth ↔ ∀ src, y.fates src = (y.sent src).map some :=
  forall_congr' fun _ => ⟨And.right, fun h => ⟨by rw [h, List.length_map], h⟩⟩

/-- A perfect channel relays bytes on the line, and the other core reads them. -/
theorem conducts_relay {y : System} {f sent : List Byte} {t : State} (src : Side) (hf : y.fates src = sent.map some)
    (hs : y.sent src = sent ++ f)
    (ht : Takes (List.replicate f.length .rxByte) ((coreOf y (other src)).receive f) t) :
    Conducts Claims.perfectBoth (relay src (other src) f) y (withCore (carried y f src) t (other src)) := by
  have allowed : y.allows Claims.perfectBoth (.carry src (f.map some)) :=
    ⟨[], by simp [hf, hs], by simp [hf, hs, Channel.perfect]⟩
  have reads := conducts_offers (ch := Claims.perfectBoth) ht (carried y f src) (other src) (by cases src <;> rfl)
  rw [List.map_replicate] at reads
  exact .cons allowed (move_carry y f src) reads

/-! ### Connection setup over a perfect channel (R231) -/

theorem setFrame_bytes : setFrame = [0x7E#8, 0x03#8, 0x03#8, 0x00#8, 0x7E#8] := by decide

theorem uaFrameT_bytes : uaFrameT = [0x7E#8, 0x03#8, 0x07#8, 0x04#8, 0x7E#8] := by decide

/-- The Receiver's OPEN. -/
def receiverOpen : Command := Claims.plain 0x00000011#32 []

/-- The Transmitter's OPEN with retry limit `k`. -/
def transmitterOpen (k : Nat) : Command := Claims.plain (BitVec.ofNat 32 (k * 256 + 1)) []

theorem receiverOpen_word : receiverOpen.word = cmdWord 0#16 (BitVec.ofNat 8 0) Role.receiver.code 0x1#4 := by decide

theorem transmitterOpen_word {k : Nat} (hk : k < 256) :
    (transmitterOpen k).word = cmdWord 0#16 (BitVec.ofNat 8 k) Role.transmitter.code 0x1#4 := by
  rw [openWord_ofNat, Nat.mod_eq_of_lt hk]
  simp [transmitterOpen, Role.code]

/-- The Receiver in R_SETUP (R217). -/
def receiverWaiting (s : State) : State := afterOpen .receiver 0 receiverOpen s

/-- The Receiver in OPEN, once it has read SET@03 (R218). -/
def receiverConnected (s : State) : State :=
  setupReceived (idleParser (atDone addrT codeSet [] ((receiverWaiting s).receive setFrame)))

/-- The Transmitter in T_SETUP (R212). -/
def transmitterWaiting (k : Nat) (s : State) : State := afterOpen .transmitter k (transmitterOpen k) s

/-- The Transmitter in OPEN, once it has read UA@03 (R213). -/
def transmitterConnected (k : Nat) (s : State) : State :=
  setupAcknowledged (idleParser (atDone addrT codeUa [] ((transmitterWaiting k s).receive uaFrameT)))

theorem receiver_takes_set {s : State} (h : s.rxQueue = []) :
    Takes (List.replicate setFrame.length .rxByte) ((receiverWaiting s).receive setFrame) (receiverConnected s) := by
  refine takes_set rfl rfl ?_
  change s.rxQueue ++ setFrame = setFrame ++ []
  rw [h, List.nil_append, List.append_nil]

theorem transmitter_takes_ua {k : Nat} {s : State} (h : s.rxQueue = []) :
    Takes (List.replicate uaFrameT.length .rxByte) ((transmitterWaiting k s).receive uaFrameT)
      (transmitterConnected k s) := by
  refine takes_ua rfl rfl ?_
  change s.rxQueue ++ uaFrameT = uaFrameT ++ []
  rw [h, List.nil_append, List.append_nil]

/-! The bytes each core has sent: SET with OPEN, UA with the SET read, nothing more. -/

theorem bytesSent_transmitterWaiting (k : Nat) (s : State) :
    bytesSent (transmitterWaiting k s).outputs = bytesSent s.outputs ++ setFrame := by
  change bytesSent (s.outputs ++ [_] ++ [.frame setFrame]) = _
  simp

theorem bytesSent_transmitterConnected (k : Nat) (s : State) :
    bytesSent (transmitterConnected k s).outputs = bytesSent s.outputs ++ setFrame := by
  change bytesSent ((transmitterWaiting k s).outputs ++ [.response _ _]) = _
  rw [bytesSent_append, bytesSent_transmitterWaiting]
  simp

theorem bytesSent_receiverConnected (s : State) :
    bytesSent (receiverConnected s).outputs = bytesSent s.outputs ++ uaFrameT := by
  change bytesSent (s.outputs ++ [_] ++ [.frame uaFrameT] ++ [.response _ _]) = _
  simp

/-- The system when both cores are OPEN: SET has crossed from `a` and UA from `b`. -/
def connected (k : Nat) (y : System) : System :=
  { a := transmitterConnected k y.a
    b := receiverConnected y.b
    aFates := y.aFates ++ setFrame.map some
    bFates := y.bFates ++ uaFrameT.map some }

theorem conducts_setup {y : System} {k : Nat} (h1 : 1 ≤ k) (hk : k < 256) (ha : y.a.phase = .closed)
    (hb : y.b.phase = .closed) (hqa : y.a.rxQueue = []) (hqb : y.b.rxQueue = []) (hs : y.settled Claims.perfectBoth) :
    Conducts Claims.perfectBoth
      ([.offer .b (.cmd receiverOpen)] ++ [.offer .a (.cmd (transmitterOpen k))] ++ relay .a .b setFrame ++
        relay .b .a uaFrameT) y (connected k y) := by
  rw [settled_perfect_iff] at hs
  have openB : (coreOf y .b).offer (.cmd receiverOpen) = .next (receiverWaiting y.b) :=
    offer_open hb (by decide) (.inl rfl) receiverOpen_word rfl
  have openA : y.a.offer (.cmd (transmitterOpen k)) = .next (transmitterWaiting k y.a) :=
    offer_open ha hk (.inr h1) (transmitterOpen_word hk) rfl
  have setCrosses := conducts_relay (y := { y with a := transmitterWaiting k y.a, b := receiverWaiting y.b }) .a (hs .a)
    (bytesSent_transmitterWaiting k y.a) (receiver_takes_set hqb)
  have uaCrosses := conducts_relay
    (y := { connected k y with a := transmitterWaiting k y.a, bFates := y.bFates }) .b (hs .b)
    (bytesSent_receiverConnected y.b) (transmitter_takes_ua hqa)
  exact (((conducts_offer .b openB).append (conducts_offer .a openA)).append setCrosses).append uaCrosses

/-- The connected system is settled: each side's fates are the bytes it had sent and its frame of the setup. -/
theorem connected_settled (k : Nat) {y : System} (hs : y.settled Claims.perfectBoth) :
    (connected k y).settled Claims.perfectBoth := by
  rw [settled_perfect_iff] at hs ⊢
  intro src
  cases src with
  | a =>
    change y.aFates ++ _ = (bytesSent (transmitterConnected k y.a).outputs).map some
    rw [bytesSent_transmitterConnected, List.map_append, show y.aFates = _ from hs .a]
    rfl
  | b =>
    change y.bFates ++ _ = (bytesSent (receiverConnected y.b).outputs).map some
    rw [bytesSent_receiverConnected, List.map_append, show y.bFates = _ from hs .b]
    rfl

/-- Settles O58, by running the setup to the connected system and reading its registers. -/
theorem twoCoresConnect : Obligations.TwoCoresConnect := by
  intro y k h1 hk ha hb hqa hqb hs
  have run := conducts_setup h1 hk ha hb hqa hqb hs
  rw [setFrame_bytes, uaFrameT_bytes] at run
  exact ⟨run.conforms, connected k y, run.run, connected_settled k hs, rfl, rfl, rfl, rfl, rfl, rfl, rfl, rfl⟩

end Sys2Proof.Scope

namespace Sys2Proof.CoreState

open Sys2Proof.Machine Sys2Proof.Laws Sys2Proof.Scope

variable {s t : State}

/-! ### Rules of several operations, each as one update of the state -/

/-- R221. -/
theorem teardownAnswered_eq (s : State) : teardownAnswered (idleParser s) = { s with
    parser := Claims.idled s, topen := false, phase := .closed,
    outputs := s.outputs ++ [.frame uaFrameR, .transportClose, .response (respWord 0#16 .ok) []] } := by
  simp [teardownAnswered, endCommand, respond, transportClose, txSend, State.emit, idleParser]

/-- R214. -/
theorem setupResend_eq (s : State) : setupResend (disarmTimer s) = { s with
    retry := s.retry + 1#8, parser := Claims.idled s, timerArmed := true, outputs := s.outputs ++ [.frame setFrame] } := by
  simp only [setupResend, armTimer, txSend, State.emit, idleParser, disarmTimer]

/-- R215. -/
theorem setupExhausted_eq (s : State) : setupExhausted (disarmTimer s) = { s with
    retry := s.cfgMaxRetry, parser := Claims.idled s, timerArmed := false, topen := false, phase := .closed,
    outputs := s.outputs ++ [.transportClose, .response (respWord 0#16 .connectionFailed) []] } := by
  simp [setupExhausted, endCommand, respond, transportClose, State.emit, idleParser, disarmTimer]

/-- R246. -/
theorem writeResend_eq (s : State) : writeResend (disarmTimer s) = { s with
    retry := s.retry + 1#8, parser := Claims.idled s, timerArmed := true, outputs := s.outputs ++ [.frame s.txFrame] } := by
  simp only [writeResend, armTimer, txSend, State.emit, idleParser, disarmTimer, State.txFrame]

/-- R247. -/
theorem writeExhausted_eq (s : State) : writeExhausted (disarmTimer s) = { s with
    retry := s.cfgMaxRetry, parser := Claims.idled s, timerArmed := false, phase := .broken,
    outputs := s.outputs ++ [.frame discFrameT, .response (respWord 0#16 .deliveryFailed) []] } := by
  simp [writeExhausted, endCommand, respond, txSend, State.emit, idleParser, disarmTimer]

/-! ### The invariant in three parts

The registers that are sound in every phase, what each phase asks of the connection's registers, and what the parser's
position asks of its captures. A rule of an instruction or of the timer is then checked against the one table entry of
the phase it reaches. -/

/-- The part of the invariant that no phase and no position has a say in. -/
structure RegistersSound (s : State) : Prop where
  parOk : s.par.ok
  rawLen : s.parser.rawlen ≤ s.par.rawCap
  rawBuf : s.parser.rawbuf.wf ∧ s.parser.rawbuf.within s.par.rawCap
  dstBuf : s.dstbuf.wf ∧ s.dstbuf.within s.par.dstCap
  txBuf : s.txbuf.wf ∧ s.txbuf.within s.par.txbufCap
  unitBuf : s.unitbuf.wf ∧ s.unitbuf.within s.par.unitCap
  txLen : s.txlen ≤ s.par.txbufCap
  disc : s.discSeen = true → s.role = .receiver

/-- What a phase asks of the timer, the transport, the role, the retry budget and the held frame (R30, R33, R34, R40, R41,
R49, R243). -/
def PhaseSound (s : State) : Phase → Prop
  | .closed => s.timerArmed = false ∧ s.topen = false
  | .opened => s.timerArmed = false ∧ s.topen = true ∧ (s.role = .transmitter → s.cfgMaxRetry ≠ 0#8)
  | .tSetup => s.timerArmed = true ∧ s.topen = true ∧ s.role = .transmitter ∧ s.retry.toNat < s.cfgMaxRetry.toNat
  | .tWaitAck => s.timerArmed = true ∧ s.topen = true ∧ s.role = .transmitter ∧ s.retry.toNat < s.cfgMaxRetry.toNat ∧
      ∃ p : List Byte, p.length = s.wlen.toNat ∧ buildI s.par s.ns p = .ok s.txFrame
  | .tTeardown | .broken => s.timerArmed = false ∧ s.topen = true ∧ s.role = .transmitter ∧ s.cfgMaxRetry ≠ 0#8
  | .rSetup | .rRead | .rTeardownDisc | .rTeardownUa => s.timerArmed = false ∧ s.topen = true ∧ s.role = .receiver

/-- What the parser's position asks of the phase and of the captures (R42, R43, R186, R189, R194, R198). -/
structure PosSound (ph : Phase) (p : Parser) : Prop where
  notDone : p.ps ≠ .done
  idlePos : ph.busy = false → p.ps = .idle
  address : p.ps ∈ [.sawControl, .sawChecksum, .inPayload] → p.pa ∈ addrSet
  control : p.ps ∈ [.sawChecksum, .inPayload] → p.pc ∈ ctrlSet ph
  rawOfS : p.ps = .inPayload → p.pc ∈ sCtrl → p.rawlen = 0

theorem byte_ne_zero_of_lt {r k : Byte} (h : r.toNat < k.toNat) : k ≠ 0#8 := by
  rintro rfl
  exact absurd h (by simp)

theorem byte_pos_of_ne_zero {k : Byte} (h : k ≠ 0#8) : (0#8).toNat < k.toNat :=
  Nat.pos_of_ne_zero fun e => h (BitVec.eq_of_toNat_eq e)

theorem registersSound_of_inv (h : s.Inv) : RegistersSound s := { h with }

theorem posSound_of_inv (h : s.Inv) : PosSound s.phase s.parser := { h with }

theorem phaseSound_of_inv (h : s.Inv) : PhaseSound s s.phase := by
  obtain ⟨-, -, -, -, -, -, -, -, -, -, -, -, timer, budget, limit, roleTx, roleRx, transport, -, held⟩ := h
  cases hp : s.phase <;> simp_all [PhaseSound]

theorem inv_of_parts (h : RegistersSound s) (hp : PhaseSound s s.phase) (hq : PosSound s.phase s.parser) : s.Inv := by
  have hk : s.retry.toNat < s.cfgMaxRetry.toNat → s.cfgMaxRetry ≠ 0#8 := byte_ne_zero_of_lt
  refine { h, hq with timer := ?_, budget := ?_, limit := ?_, roleTx := ?_, roleRx := ?_, transport := ?_, held := ?_ }
  all_goals clear h hq; cases hs : s.phase <;> simp_all [PhaseSound]

/-- In Idle the position asks for nothing. -/
theorem posSound_idle {ph : Phase} {p : Parser} (h : p.ps = .idle) : PosSound ph p := by
  constructor <;> simp [h]

/-! ### The rules keep the registers -/

/-- A judged region changes the phase, nr and the outputs, and nothing else (R266 to R271). -/
theorem actOn_eq (v : Verdict) (s : State) :
    actOn v s = { s with
      phase := (actOn v s).phase, nr := (actOn v s).nr, outputs := (actOn v s).outputs,
      freeCount := (actOn v s).freeCount } := by
  cases v <;> rfl

theorem registersSound_actOn (v : Verdict) (h : RegistersSound s) : RegistersSound (actOn v s) := by
  rw [actOn_eq]; exact { h with }

/-- An accepted OPEN clears the raw buffer's length and disc_seen (R210). -/
theorem registersSound_openInit (role : Role) (k : Byte) (h : RegistersSound s) : RegistersSound (openInit role k s) :=
  { h with rawLen := Nat.zero_le _, disc := nofun }

/-- R241: the frame BuildI gives fits txbuf. -/
theorem registersSound_writeSent {f : List Byte} (len : Nat) (h : RegistersSound s)
    (hf : buildI s.par s.ns s.port.data = .ok f) : RegistersSound (writeSent f len s) :=
  { h with
    txBuf := ⟨memory_wf_writeAll h.txBuf.1 0 f,
      memory_within_writeAll h.txBuf.2 (f.length.zero_add.trans_le (buildI_length hf))⟩
    txLen := buildI_length hf }

/-- R266: a destuffed region fits dstbuf. -/
theorem registersSound_dstbuf {raw d : List Byte} (h : RegistersSound s) (hd : destuff s.par raw s.par.dstCap = .ok d) :
    RegistersSound { s with dstbuf := Memory.writeAll s.dstbuf 0 d } :=
  { h with
    dstBuf := ⟨memory_wf_writeAll h.dstBuf.1 0 d,
      memory_within_writeAll h.dstBuf.2 (by simpa using destuff_length hd)⟩ }

/-- R136, R137: a codec's output fits unitbuf. -/
theorem registersSound_unitbuf {out : List Byte} (h : RegistersSound s) (ho : out.length ≤ s.par.unitCap) :
    RegistersSound { s with unitbuf := Memory.writeAll s.unitbuf 0 out } :=
  { h with
    unitBuf := ⟨memory_wf_writeAll h.unitBuf.1 0 out, memory_within_writeAll h.unitBuf.2 (by simpa using ho)⟩ }

theorem registersSound_idleParser (h : RegistersSound s) : RegistersSound (idleParser s) := { h with }

/-- Only a write to a buffer, an OPEN, a READ and the DISC of R264 have anything to show. -/
theorem took_registersSound {i : Instr} (h : Took i s t) (hr : RegistersSound s) (hp : PhaseSound s s.phase) :
    RegistersSound t := by
  cases h with
  | violate | ignore | closeTx | closeRx | closeRxSeen | closeBroken | setupReceived | setupAcknowledged |
    teardownAcknowledged | teardownReceived | writeRefused | writeAccepted | writeRejected | rejected | corrupt |
    unitAnswer => exact { hr with }
  | teardownAnswered => rw [teardownAnswered_eq]; exact { hr with }
  | openFailed role k | openTx k | openRx k => exact { registersSound_openInit _ (BitVec.ofNat 8 k) hr with }
  | read => exact { hr with rawLen := Nat.zero_le _ }
  | disconnectRequested _ hs =>
    rw [hs] at hp
    obtain ⟨-, -, hrole⟩ := hp
    exact { hr with disc := fun _ => hrole }
  | writeSent len f _ _ _ _ _ hf => exact registersSound_writeSent len hr hf
  | judged n d _ _ hd => exact registersSound_actOn _ (registersSound_dstbuf (registersSound_idleParser hr) hd)
  | unitOutput w out _ _ ho => exact { registersSound_unitbuf hr ho with }

/-! ### The rules reach the phase's table entry -/

theorem closed_of_openAccepted {role : Role} {k : Byte} (h : openAccepted role k s = true) : s.phase = .closed :=
  ((openAccepted_iff ..).mp h).1

/-- The frame a WRITE stores is the one a retransmission sends (R45, R241). -/
theorem txFrame_writeSent {f : List Byte} (len : Nat) (h : s.txbuf.wf) : (writeSent f len s).txFrame = f :=
  memory_slice_writeAll h f

/-- Each verdict stays in R_READ or ends the READ in OPEN. -/
theorem phaseSound_actOn (v : Verdict) (hs : s.phase = .rRead) (hp : PhaseSound s .rRead) :
    PhaseSound (actOn v s) (actOn v s).phase := by
  obtain ⟨harmed, hopen, hrole⟩ := hp
  have hrx : s.role = .transmitter → s.cfgMaxRetry ≠ 0#8 := by simp [hrole]
  cases v with
  | reject | duplicate =>
    change PhaseSound s s.phase
    rw [hs]; exact ⟨harmed, hopen, hrole⟩
  | corrupt | fresh => exact ⟨harmed, hopen, hrx⟩

/-- Each rule's registers are those of the entry it reaches, given those of the entry it starts from. -/
theorem took_phaseSound {i : Instr} (h : Took i s t) (hr : RegistersSound s) (hp : PhaseSound s s.phase) :
    PhaseSound t t.phase := by
  cases h with
  | violate | ignore | writeRefused | rejected | unitOutput | unitAnswer => exact hp
  | openFailed role k _ ha =>
    rw [closed_of_openAccepted ha] at hp
    exact ⟨hp.1, rfl⟩
  | openTx k _ ha =>
    have hk : BitVec.ofNat 8 k ≠ 0#8 := by simpa using ((openAccepted_iff ..).mp ha).2.1
    exact ⟨rfl, rfl, rfl, byte_pos_of_ne_zero hk⟩
  | openRx k _ ha =>
    rw [closed_of_openAccepted ha] at hp
    exact ⟨hp.1, rfl, rfl⟩
  | closeTx _ hs hrole =>
    rw [hs] at hp
    obtain ⟨harmed, hopen, hk⟩ := hp
    exact ⟨harmed, hopen, hrole, hk hrole⟩
  | closeRx _ hs hrole | closeRxSeen _ hs hrole | read _ hs hrole =>
    rw [hs] at hp
    obtain ⟨harmed, hopen, -⟩ := hp
    exact ⟨harmed, hopen, hrole⟩
  | closeBroken _ hs | teardownAcknowledged _ hs =>
    rw [hs] at hp
    exact ⟨hp.1, rfl⟩
  | teardownAnswered _ hs =>
    rw [hs] at hp
    rw [teardownAnswered_eq]
    exact ⟨hp.1, rfl⟩
  | setupReceived _ hs | disconnectRequested _ hs | corrupt _ _ hs =>
    rw [hs] at hp
    obtain ⟨harmed, hopen, hrole⟩ := hp
    exact ⟨harmed, hopen, fun htx => absurd (hrole.symm.trans htx) (by decide)⟩
  | setupAcknowledged _ hs =>
    rw [hs] at hp
    obtain ⟨-, hopen, -, hbudget⟩ := hp
    exact ⟨rfl, hopen, fun _ => byte_ne_zero_of_lt hbudget⟩
  | writeAccepted _ hs =>
    rw [hs] at hp
    obtain ⟨-, hopen, -, hbudget, -⟩ := hp
    exact ⟨rfl, hopen, fun _ => byte_ne_zero_of_lt hbudget⟩
  | teardownReceived _ hs => rw [hs] at hp; exact hp
  | writeSent len f _ hs hrole hd hl hf =>
    rw [hs] at hp
    obtain ⟨-, hopen, hk⟩ := hp
    have hlen : s.port.data.length = (BitVec.ofNat 16 len).toNat := by
      have := hr.parOk.2.1
      rw [(hasLength_iff ..).mp hd, BitVec.toNat_ofNat, Nat.mod_eq_of_lt (by omega)]
    have hframe := txFrame_writeSent (f := f) len hr.txBuf.1
    exact ⟨rfl, hopen, hrole, byte_pos_of_ne_zero (hk hrole), s.port.data, hlen, hframe.symm ▸ hf⟩
  | writeRejected _ hs =>
    change PhaseSound _ s.phase
    rw [hs] at hp ⊢
    exact ⟨rfl, hp.2⟩
  | judged n d _ hs => exact phaseSound_actOn _ hs (hs ▸ hp :)

/-! ### The parser's position -/

theorem decodeCtrl_encode {b : Byte} {i : Instr} (h : decodeCtrl b = .ok i) : encode i = .ctrl b := by
  rcases decodeCtrl_cases h with h | h | h | h | h | h | h | h | h <;> obtain ⟨rfl, rfl⟩ := h <;> rfl

theorem encode_ne_cmd_of_decodeCtrl {b : Byte} {i : Instr} (h : decodeCtrl b = .ok i) (w : Word) :
    encode i ≠ .cmd w := by
  rw [decodeCtrl_encode h]; nofun

/-- A rule leaves the parser in Idle, or is a host command's that leaves the parser alone, and then it keeps the phase or
starts in an idle one. -/
theorem took_parser {i : Instr} (h : Took i s t) :
    t.parser.ps = .idle ∨
    (∃ w, encode i = .cmd w) ∧ t.parser = s.parser ∧ (t.phase = s.phase ∨ s.phase.busy = false) := by
  cases h with
  | violate w hi => exact .inr ⟨⟨w, hi⟩, rfl, .inl rfl⟩
  | unitOutput w _ hi | unitAnswer w _ _ hi => exact .inr ⟨⟨w, hi⟩, rfl, .inl rfl⟩
  | writeRefused len hi => exact .inr ⟨⟨lenWord len 0x2#4, hi ▸ rfl⟩, rfl, .inl rfl⟩
  | closeBroken hi hs => exact .inr ⟨⟨lenWord 0 0x4#4, hi ▸ rfl⟩, rfl, .inr (hs ▸ rfl)⟩
  | judged => rw [actOn_eq]; exact .inl rfl
  | _ => exact .inl rfl

/-- A rule that leaves the parser alone finds it in Idle, or keeps the phase its position is sound for. -/
theorem took_posSound {i : Instr} (h : Took i s t) (hq : PosSound s.phase s.parser) : PosSound t.phase t.parser := by
  rcases took_parser h with hidle | ⟨-, hsame, hphase | hphase⟩
  · exact posSound_idle hidle
  · rw [hsame, hphase]; exact hq
  · exact posSound_idle (hsame ▸ hq.idlePos hphase)

/-- A frame's instruction leaves the parser in Idle (R197). -/
theorem took_ctrl_idle {i : Instr} {b : Byte} (hi : decodeCtrl b = .ok i) (h : Took i s t) : t.parser.ps = .idle := by
  rcases took_parser h with hidle | ⟨⟨w, hw⟩, -⟩
  · exact hidle
  · exact absurd hw (encode_ne_cmd_of_decodeCtrl hi w)

section Byte
variable {par : Params} {ph : Phase} {p q : Parser} {b : Byte}

/-- A byte that does not end a frame keeps the position sound: the transition that leaves a slot makes its capture. -/
theorem parses_posSound (h : Parses par ph p b q) (hb : ph.busy = true) (hd : q.ps ≠ .done) (hp : PosSound ph p) :
    PosSound ph q := by
  have hbusy : ph.busy = false → q.ps = .idle := by simp [hb]
  cases h with
  | stay => exact hp
  | start | drop => constructor <;> simp [hb]
  | address _ ha => exact ⟨nofun, hbusy, fun _ => ha, by simp, nofun⟩
  | control hs hc => exact ⟨nofun, hbusy, fun _ => hp.address (by simp [hs]), fun _ => hc, nofun⟩
  | checksum hs =>
    exact ⟨nofun, hbusy, fun _ => hp.address (by simp [hs]), fun _ => hp.control (by simp [hs]), fun _ _ => rfl⟩
  | finish => exact absurd rfl hd
  | append hs hc => exact { hp with rawOfS := fun _ h => absurd h hc }

/-- A byte keeps the raw buffer canonical and within RAW_CAP (R44, R72, R196). -/
theorem parses_raw (h : Parses par ph p b q) (hl : p.rawlen ≤ par.rawCap)
    (hr : p.rawbuf.wf ∧ p.rawbuf.within par.rawCap) :
    q.rawlen ≤ par.rawCap ∧ q.rawbuf.wf ∧ q.rawbuf.within par.rawCap := by
  cases h with
  | append _ _ hlt => exact ⟨hlt, memory_wf_write hr.1 _ _, memory_within_write hr.2 hlt _⟩
  | checksum => exact ⟨Nat.zero_le _, hr⟩
  | stay | start | drop | address | control | finish => exact ⟨hl, hr⟩

end Byte

/-! ### The timer's rules -/

/-- One more timeout, counted on the register (R14, R40). -/
theorem toNat_succ_of_lt {r k : Byte} (h : r.toNat + 1 < k.toNat) : (r + 1#8).toNat = r.toNat + 1 := by
  rw [byte_succ, BitVec.toNat_ofNat, Nat.mod_eq_of_lt (by have := k.isLt; omega)]

/-- R214. -/
theorem setupResend_inv (hr : RegistersSound s) (hs : s.phase = .tSetup) (hp : PhaseSound s s.phase)
    (hlt : s.retry.toNat + 1 < s.cfgMaxRetry.toNat) : (setupResend (disarmTimer s)).Inv := by
  rw [hs] at hp
  obtain ⟨-, hopen, hrole, -⟩ := hp
  rw [setupResend_eq]
  refine inv_of_parts { hr with } ?_ (posSound_idle rfl)
  change PhaseSound _ s.phase
  rw [hs]
  exact ⟨rfl, hopen, hrole, (toNat_succ_of_lt hlt).trans_lt hlt⟩

/-- R215. -/
theorem setupExhausted_inv (hr : RegistersSound s) : (setupExhausted (disarmTimer s)).Inv := by
  rw [setupExhausted_eq]
  exact inv_of_parts { hr with } ⟨rfl, rfl⟩ (posSound_idle rfl)

/-- R246. -/
theorem writeResend_inv (hr : RegistersSound s) (hs : s.phase = .tWaitAck) (hp : PhaseSound s s.phase)
    (hlt : s.retry.toNat + 1 < s.cfgMaxRetry.toNat) : (writeResend (disarmTimer s)).Inv := by
  rw [hs] at hp
  obtain ⟨-, hopen, hrole, -, hheld⟩ := hp
  rw [writeResend_eq]
  refine inv_of_parts { hr with } ?_ (posSound_idle rfl)
  change PhaseSound _ s.phase
  rw [hs]
  exact ⟨rfl, hopen, hrole, (toNat_succ_of_lt hlt).trans_lt hlt, hheld⟩

/-- R247. -/
theorem writeExhausted_inv (hr : RegistersSound s) (hs : s.phase = .tWaitAck) (hp : PhaseSound s s.phase) :
    (writeExhausted (disarmTimer s)).Inv := by
  rw [hs] at hp
  obtain ⟨-, hopen, hrole, hbudget, -⟩ := hp
  rw [writeExhausted_eq]
  exact inv_of_parts { hr with } ⟨rfl, hopen, hrole, byte_ne_zero_of_lt hbudget⟩ (posSound_idle rfl)

/-- Settles O50: each way a step goes on keeps each of the invariant's three parts. -/
theorem stepKeepsInvariant : Obligations.StepKeepsInvariant := by
  intro s t hs h
  have hr := registersSound_of_inv hs
  have hp := phaseSound_of_inv hs
  have hq := posSound_of_inv hs
  cases step_stepped h with
  | wait => exact hs
  | notEnabled | arrival | badWord => exact { hs with }
  | command c es i t _ _ ht =>
    have hr' : RegistersSound { s with events := es, port := c } := { hr with }
    exact inv_of_parts (took_registersSound ht hr' hp) (took_phaseSound ht hr' hp) (took_posSound ht hq)
  | byte b q es p _ hb _ _ hstep hd =>
    have hraw := parses_raw hstep hr.rawLen hr.rawBuf
    exact inv_of_parts { hr with rawLen := hraw.1, rawBuf := hraw.2 } hp (parses_posSound hstep hb hd hq)
  | frame q es i t _ _ _ _ hi ht =>
    have hr' : RegistersSound { s with events := es, rxQueue := q, parser := { s.parser with ps := .done } } :=
      { hr with }
    have hidle := took_ctrl_idle hi ht
    exact inv_of_parts (took_registersSound ht hr' hp) (took_phaseSound ht hr' hp) (posSound_idle hidle)
  | setupResend es _ _ hph hlt => exact setupResend_inv (s := { s with events := es }) { hr with } hph hp hlt
  | setupExhausted es => exact setupExhausted_inv (s := { s with events := es }) { hr with }
  | writeResend es _ _ hph hlt => exact writeResend_inv (s := { s with events := es }) { hr with } hph hp hlt
  | writeExhausted es _ _ hph => exact writeExhausted_inv (s := { s with events := es }) { hr with } hph hp

/-! ### Sound states never stop (R311) -/

/-- A byte stops the core only at Done or with a broken capture (R42, R43). -/
theorem takeByte_answers {b : Byte} (hd : s.parser.ps ≠ .done) (hc : Captured s.parser) :
    ∃ t, takeByte b s = .next t := by
  unfold takeByte
  rw [if_neg hd, captured_not_broken hc, if_neg Bool.false_ne_true]
  dsimp only
  split_ifs with hf
  · obtain ⟨hp, -, e⟩ := parseByte_done hd hf
    obtain ⟨i, hi⟩ := (decodeCtrl_ok_iff s.parser.pc).mpr (hc (.inr hp))
    obtain ⟨t, ht, -⟩ := exec_took i { s with parser := { s.parser with ps := .done } }
    exact ⟨t, by simp only [runFrame, e, hi, ht]⟩
  · exact ⟨_, rfl⟩

/-- The phase's control set holds nothing but the nine codes. -/
theorem captured_of_inv (h : s.Inv) : Captured s.parser := fun hp => ctrlSet_sub (h.control (by simpa using hp))

/-- The budget leaves room for one more timeout, so an expiry in T_SETUP resends or fails (R214, R215). -/
theorem setupExpiry_answers (h : s.retry.toNat < s.cfgMaxRetry.toNat) : ∃ t, setupExpiry s = .next t := by
  unfold setupExpiry
  split_ifs
  · exact ⟨_, rfl⟩
  · exact ⟨_, rfl⟩
  · omega

/-- The same in T_WAIT_ACK (R246, R247). -/
theorem ackExpiry_answers (h : s.retry.toNat < s.cfgMaxRetry.toNat) : ∃ t, ackExpiry s = .next t := by
  unfold ackExpiry
  split_ifs
  · exact ⟨_, rfl⟩
  · exact ⟨_, rfl⟩
  · omega

/-- The timer is armed in the two phases that have a rule for its expiry only. -/
theorem takeExpiry_answers (h : s.Inv) : ∃ t, takeExpiry s = .next t := by
  unfold takeExpiry
  split_ifs with ha
  · have hbudget := h.budget ha
    rcases h.timer.mp ha with hp | hp
    · rw [hp]; exact setupExpiry_answers (s := disarmTimer s) hbudget
    · rw [hp]; exact ackExpiry_answers (s := disarmTimer s) hbudget
  · exact ⟨_, rfl⟩

/-- Settles O51: a command always answers, and the invariant excludes the four stops of a byte and of an expiry. -/
theorem soundStatesNeverStop : Obligations.SoundStatesNeverStop := by
  intro s h
  have hc := captured_of_inv h
  cases he : s.events with
  | nil => exact ⟨s, step_nil he⟩
  | cons e es =>
    rw [step_cons he]
    cases e with
    | cmd c =>
      simp only [takeEvent, takeCommand]
      split
      · exact (exec_took ..).imp fun _ ht => ht.1
      · exact ⟨_, rfl⟩
    | rxByte =>
      simp only [takeEvent, takeRx]
      split_ifs
      · split
        · exact ⟨_, rfl⟩
        · exact takeByte_answers (s := { s with events := es, rxQueue := _ }) h.notDone hc
      · exact ⟨_, rfl⟩
    | expiry => exact takeExpiry_answers (s := { s with events := es }) { h with }
    | arrive bs => exact ⟨_, rfl⟩

/-! ### OPEN as the instruction of a step -/

/-- An OPEN taken in CLOSED. -/
def TakesOpen (i : Instr) (s : State) : Prop := (∃ r k, i = .hostOpen r k) ∧ s.phase = .closed

theorem takesOpen_of_openAccepted {i : Instr} {r : Role} {k : Nat} (hi : i = .hostOpen r k)
    (ha : openAccepted r (BitVec.ofNat 8 k) s = true) : TakesOpen i s :=
  ⟨⟨r, k, hi⟩, closed_of_openAccepted ha⟩

/-- No frame is an OPEN (R93, R104). -/
theorem not_takesOpen_of_decodeCtrl {b : Byte} {i : Instr} (h : decodeCtrl b = .ok i) (s : State) : ¬ TakesOpen i s := by
  rintro ⟨⟨r, k, rfl⟩, -⟩
  exact encode_ne_cmd_of_decodeCtrl h _ rfl

/-! ### fault (R48, R313) -/

/-- A rule leaves fault, or is the host violation of a command. -/
theorem took_fault {i : Instr} (h : Took i s t) :
    t.fault = s.fault ∨ (∃ w, encode i = .cmd w) ∧ t = hostViolation s := by
  cases h with
  | violate w hi => exact .inr ⟨⟨w, hi⟩, rfl⟩
  | teardownAnswered => simp [teardownAnswered]
  | judged => rw [actOn_eq]; exact .inl rfl
  | _ => exact .inl rfl

/-- Settles O10: the host violations are the only steps that do not leave fault as it is. -/
theorem faultIsStickyAndSetByCommands : Obligations.FaultIsStickyAndSetByCommands := by
  intro s t h
  suffices hf : t.fault = s.fault ∨
      ∃ c es, s.events = .cmd c :: es ∧ t = { s with events := es, port := c, fault := true } by
    rcases hf with hf | ⟨c, es, he, rfl⟩
    · rw [hf]; exact ⟨id, fun h0 h1 => absurd (h0.symm.trans h1) (by decide)⟩
    · exact ⟨fun _ => rfl, fun _ _ => ⟨c, es, he, rfl⟩⟩
  cases step_stepped h with
  | command c es i t he hi ht => exact (took_fault ht).imp_right fun hv => ⟨c, es, he, hv.2⟩
  | badWord c es he => exact .inr ⟨c, es, he, rfl⟩
  | setupResend | setupExhausted | writeResend | writeExhausted =>
    simp [setupResend, setupExhausted, writeResend, writeExhausted]
  | frame q es i t _ _ _ _ hi ht =>
    rcases took_fault ht with hf | ⟨⟨w, hw⟩, -⟩
    · exact .inl hf
    · exact absurd hw (encode_ne_cmd_of_decodeCtrl hi w)
  | _ => exact .inl rfl

/-! ### The configuration (R36, R343) -/

theorem took_par {i : Instr} (h : Took i s t) : t.par = s.par := by
  cases h with
  | teardownAnswered => simp [teardownAnswered]
  | judged => rw [actOn_eq]; rfl
  | _ => rfl

/-- A rule leaves role and the configuration, or is an OPEN taken in CLOSED that latches its operands (R210). -/
theorem took_config {i : Instr} (h : Took i s t) :
    (t.role = s.role ∧ t.cfgMaxRetry = s.cfgMaxRetry ∧ t.cfgTimeout = s.cfgTimeout ∧ t.cfgBaud = s.cfgBaud ∧
      t.cfgPort = s.cfgPort) ∨
    ∃ r k, i = .hostOpen r k ∧ s.phase = .closed ∧ t.role = r ∧ t.cfgMaxRetry = BitVec.ofNat 8 k ∧
      t.cfgTimeout = s.port.timeout ∧ t.cfgBaud = s.port.baud ∧ t.cfgPort = s.port.port := by
  cases h with
  | openFailed _ k hi ha | openTx k hi ha | openRx k hi ha =>
    exact .inr ⟨_, k, hi, closed_of_openAccepted ha, rfl, rfl, rfl, rfl, rfl⟩
  | teardownAnswered => simp [teardownAnswered]
  | judged => rw [actOn_eq]; exact .inl ⟨rfl, rfl, rfl, rfl, rfl⟩
  | _ => exact .inl ⟨rfl, rfl, rfl, rfl, rfl⟩

/-- Settles O52: only an OPEN's rule writes the configuration, and no frame is an OPEN. -/
theorem configurationIsWrittenByOpenOnly : Obligations.ConfigurationIsWrittenByOpenOnly := by
  intro s t h
  cases step_stepped h with
  | command c es i t he hi ht =>
    refine ⟨(took_par ht :), (took_config ht).imp_right ?_⟩
    rintro ⟨r, k, rfl, hp, hopen⟩
    exact ⟨c, es, r, k, he, hi, hp, hopen⟩
  | frame q es i t _ _ _ _ hi ht =>
    refine ⟨(took_par ht :), (took_config ht).imp_right ?_⟩
    rintro ⟨r, k, rfl, -⟩
    exact absurd rfl (encode_ne_cmd_of_decodeCtrl hi _)
  | setupResend | setupExhausted | writeResend | writeExhausted =>
    simp [setupResend, setupExhausted, writeResend, writeExhausted]
  | _ => exact ⟨rfl, .inl ⟨rfl, rfl, rfl, rfl, rfl⟩⟩

/-! ### ns and nr (R37, R38) -/

/-- Every rule that names neither OPEN, R213 nor R244 leaves ns. -/
theorem took_ns {i : Instr} (h : Took i s t) :
    t.ns = s.ns ∨ t.ns = 0#1 ∧ TakesOpen i s ∨ t.ns = 0#1 ∧ s.phase = .tSetup ∧ i = .ctlUa ∧ t.phase = .opened ∨
    t.ns = s.ns.flip ∧ s.phase = .tWaitAck ∧ encode i = .ctrl (ctrlRR s.ns.flip) ∧ t.phase = .opened := by
  cases h with
  | openFailed _ _ hi ha | openTx _ hi ha | openRx _ hi ha => exact .inr (.inl ⟨rfl, takesOpen_of_openAccepted hi ha⟩)
  | setupAcknowledged hi hs => exact .inr (.inr (.inl ⟨rfl, hs, hi, rfl⟩))
  | writeAccepted hi hs => exact .inr (.inr (.inr ⟨rfl, hs, hi, rfl⟩))
  | teardownAnswered => simp [teardownAnswered]
  | judged => rw [actOn_eq]; exact .inl rfl
  | _ => exact .inl rfl

/-- What R270 asks of a region: the expected sequence bit, and a payload followed by its checksum. -/
theorem judge_eq_fresh {nr n : Bit} {d p : List Byte} (h : judge nr n d = .fresh p) : n = nr ∧ d = p ++ [pcs p] := by
  unfold judge at h
  split at h
  · cases h
  · rename_i q hq
    split_ifs at h with hc hn
    obtain rfl : d.dropLast = p := by cases h; rfl
    have hpcs : pcs d.dropLast = q := not_not.mp hc
    exact ⟨hn, by rw [hpcs, List.dropLast_append_getLast? q hq]⟩

/-- Every rule that names neither OPEN, R218 nor R270 leaves nr. -/
theorem took_nr {i : Instr} (h : Took i s t) :
    t.nr = s.nr ∨ t.nr = 0#1 ∧ TakesOpen i s ∨ t.nr = 0#1 ∧ s.phase = .rSetup ∧ i = .ctlSet ∧ t.phase = .opened ∨
    t.nr = s.nr.flip ∧ s.phase = .rRead ∧ encode i = .ctrl (ctrlI s.nr) ∧ t.phase = .opened ∧
      ∃ p, destuff s.par s.parser.raw s.par.dstCap = .ok (p ++ [pcs p]) := by
  cases h with
  | openFailed _ _ hi ha | openTx _ hi ha | openRx _ hi ha => exact .inr (.inl ⟨rfl, takesOpen_of_openAccepted hi ha⟩)
  | setupReceived hi hs => exact .inr (.inr (.inl ⟨rfl, hs, hi, rfl⟩))
  | judged n d hi hs hd =>
    cases hj : judge s.nr n d with
    | fresh p =>
      obtain ⟨rfl, rfl⟩ := judge_eq_fresh hj
      exact .inr (.inr (.inr ⟨rfl, hs, hi, rfl, p, hd⟩))
    | reject | corrupt | duplicate => exact .inl rfl
  | teardownAnswered => simp [teardownAnswered]
  | _ => exact .inl rfl

theorem pc_of_frame {b c : Byte} {i : Instr} (hb : decodeCtrl b = .ok i) (hi : encode i = .ctrl c) : b = c := by
  simpa using (decodeCtrl_encode hb).symm.trans hi

theorem ctrlRR_flip (n : Bit) : ctrlRR n.flip = if n = 0#1 then 0x85#8 else 0x05#8 := by revert n; decide

/-- Settles O53: an OPEN is a command, and every other writer is the frame of the captured control byte. -/
theorem sequenceBitsAreWrittenAsStated : Obligations.SequenceBitsAreWrittenAsStated := by
  intro s t h
  cases step_stepped h with
  | command c es i t he hi ht =>
    have hopen : TakesOpen i { s with events := es, port := c } →
        ∃ c es r k, s.events = .cmd c :: es ∧ decodeCmd c.word = .ok (.hostOpen r k) ∧ s.phase = .closed := by
      rintro ⟨⟨r, k, rfl⟩, hp⟩
      exact ⟨c, es, r, k, he, hi, hp⟩
    have hctrl := decodeCmd_ne_ctrl hi
    constructor
    · rcases took_ns ht with hn | ⟨hn, ho⟩ | ⟨-, -, rfl, -⟩ | ⟨-, -, hc, -⟩
      · exact .inl hn
      · exact .inr (.inl ⟨hn, hopen ho⟩)
      · exact absurd rfl (hctrl codeUa)
      · exact absurd hc (hctrl _)
    · rcases took_nr ht with hn | ⟨hn, ho⟩ | ⟨-, -, rfl, -⟩ | ⟨-, -, hc, -⟩
      · exact .inl hn
      · exact .inr (.inl ⟨hn, hopen ho⟩)
      · exact absurd rfl (hctrl codeSet)
      · exact absurd hc (hctrl _)
  | frame q es i t _ _ _ _ hi ht =>
    have hopen := not_takesOpen_of_decodeCtrl hi
    constructor
    · rcases took_ns ht with hn | ⟨-, ho⟩ | ⟨hn, hp, rfl, hend⟩ | ⟨hn, hp, hc, hend⟩
      · exact .inl hn
      · exact absurd ho (hopen _)
      · exact .inr (.inr (.inl ⟨hn, hp, pc_of_frame hi rfl, hend⟩))
      · exact .inr (.inr (.inr ⟨hn, hp, (pc_of_frame hi hc).trans (ctrlRR_flip s.ns), hend⟩))
    · rcases took_nr ht with hn | ⟨-, ho⟩ | ⟨hn, hp, rfl, hend⟩ | ⟨hn, hp, hc, hend, hd⟩
      · exact .inl hn
      · exact absurd ho (hopen _)
      · exact .inr (.inr (.inl ⟨hn, hp, pc_of_frame hi rfl, hend⟩))
      · exact .inr (.inr (.inr ⟨hn, ⟨hp, (pc_of_frame hi hc).trans (ctrlI_eq_infoCode s.nr), hend⟩, hd⟩))
  | setupResend | setupExhausted | writeResend | writeExhausted =>
    simp [setupResend, setupExhausted, writeResend, writeExhausted]
  | _ => exact ⟨.inl rfl, .inl rfl⟩

/-! ### retry (R40) -/

/-- Every rule but OPEN's and R241 leaves retry, R245 in particular. -/
theorem took_retry {i : Instr} (h : Took i s t) :
    t.retry = s.retry ∨ t.retry = 0#8 ∧
      (TakesOpen i s ∨ (∃ n, i = .hostWrite n) ∧ s.phase = .opened ∧ t.phase = .tWaitAck) := by
  cases h with
  | openFailed _ _ hi ha | openTx _ hi ha | openRx _ hi ha => exact .inr ⟨rfl, .inl (takesOpen_of_openAccepted hi ha)⟩
  | writeSent len f hi hs => exact .inr ⟨rfl, .inr ⟨⟨len, hi⟩, hs, rfl⟩⟩
  | teardownAnswered => simp [teardownAnswered]
  | judged => rw [actOn_eq]; exact .inl rfl
  | _ => exact .inl rfl

/-- Settles O54: besides the rules of `took_retry`, the four of the timer write it, each the register's next value. -/
theorem retryCountsElapsedTimeouts : Obligations.RetryCountsElapsedTimeouts := by
  intro s t h
  cases step_stepped h with
  | command c es i t he hi ht =>
    rcases took_retry ht with hr | ⟨hr, ⟨⟨r, k, rfl⟩, hp⟩ | ⟨⟨n, rfl⟩, hp, hend⟩⟩
    · exact .inl hr
    · exact .inr (.inl ⟨c, es, he, hr, .inl ⟨r, k, hi, hp⟩⟩)
    · exact .inr (.inl ⟨c, es, he, hr, .inr ⟨n, hi, hp, hend⟩⟩)
  | frame q es i t _ _ _ _ hi ht =>
    rcases took_retry ht with hr | ⟨-, ho | ⟨⟨n, rfl⟩, -⟩⟩
    · exact .inl hr
    · exact absurd ho (not_takesOpen_of_decodeCtrl hi _)
    · exact absurd rfl (encode_ne_cmd_of_decodeCtrl hi _)
  | setupResend es he _ hp hlt =>
    have hcount := toNat_succ_of_lt hlt
    exact .inr (.inr ⟨es, he, .inl hp, hcount, hcount.trans_le hlt.le⟩)
  | writeResend es he _ hp hlt =>
    have hcount := toNat_succ_of_lt hlt
    exact .inr (.inr ⟨es, he, .inr hp, hcount, hcount.trans_le hlt.le⟩)
  | setupExhausted es he _ hp hk => exact .inr (.inr ⟨es, he, .inl hp, hk.symm, le_rfl⟩)
  | writeExhausted es he _ hp hk => exact .inr (.inr ⟨es, he, .inr hp, hk.symm, le_rfl⟩)
  | _ => exact .inl rfl

/-! ### Responses (R301) -/

@[simp] theorem responses_append (os ps : List Output) : responses (os ++ ps) = responses os + responses ps :=
  List.countP_append

@[simp] theorem responses_nil : responses [] = 0 := rfl

@[simp] theorem responses_response (w : Word) (d : List Byte) (os : List Output) :
    responses (.response w d :: os) = responses os + 1 :=
  List.countP_cons_of_pos rfl

@[simp] theorem responses_frame (f : List Byte) (os : List Output) : responses (.frame f :: os) = responses os :=
  List.countP_cons_of_neg (by simp)

@[simp] theorem responses_transportOpen (p b : Nat) (ok : Bool) (os : List Output) :
    responses (.transportOpen p b ok :: os) = responses os := List.countP_cons_of_neg (by simp)

@[simp] theorem responses_transportClose (os : List Output) : responses (.transportClose :: os) = responses os :=
  List.countP_cons_of_neg (by simp)

/-- How a rule that acts ends: in a busy phase without a response, or in an idle one with a response (R31, R301). -/
def Answers (s t : State) : Prop :=
  if t.phase.busy then responses t.outputs = responses s.outputs else responses t.outputs = responses s.outputs + 1

theorem answers_actOn (v : Verdict) (hs : s.phase = .rRead) : Answers s (actOn v s) := by
  cases v with
  | reject | duplicate =>
    simp [Answers, actOn, sendRej, answerDuplicate, hs, Phase.busy]
  | corrupt | fresh => simp [Answers, actOn, readCorrupt, deliver, Phase.busy]

/-- A rule is the host violation of a command, the dropping of a frame, or it ends as `Answers` says. -/
theorem took_answers {i : Instr} (h : Took i s t) :
    (∃ w, encode i = .cmd w) ∧ t = hostViolation s ∨
    (∃ c, encode i = .ctrl c) ∧ t = idleParser s ∨
    Answers s t := by
  cases h with
  | violate w hi => exact .inl ⟨⟨w, hi⟩, rfl⟩
  | ignore c hi => exact .inr (.inl ⟨⟨c, hi⟩, rfl⟩)
  | openFailed | openTx | openRx =>
    exact .inr (.inr (by simp [Answers, openFailed, openTransmitter, openReceiver, openInit, Phase.busy]))
  | closeTx | closeRx | closeRxSeen | closeBroken =>
    exact .inr (.inr (by simp [Answers, closeTransmitter, closeReceiver, closeReceiverSeen, closeBroken, Phase.busy]))
  | setupReceived | setupAcknowledged =>
    exact .inr (.inr (by simp [Answers, setupReceived, setupAcknowledged, Phase.busy]))
  | teardownAcknowledged | teardownAnswered | teardownReceived | disconnectRequested =>
    exact .inr (.inr (by
      simp [Answers, teardownAcknowledged, teardownAnswered, teardownReceived, disconnectRequested, Phase.busy]))
  | writeSent | writeAccepted | read => exact .inr (.inr (by simp [Answers, writeSent, writeAccepted, Phase.busy]))
  | writeRefused _ _ hs | writeRejected _ hs =>
    exact .inr (.inr (by simp [Answers, writeRefused, writeRejected, hs, Phase.busy]))
  | rejected _ _ hs => exact .inr (.inr (answers_actOn (s := idleParser s) (.reject .header) hs))
  | corrupt _ _ hs => exact .inr (.inr (answers_actOn (s := idleParser s) .corrupt hs))
  | judged n d _ hs =>
    exact .inr (.inr (answers_actOn (s := { idleParser s with dstbuf := Memory.writeAll s.dstbuf 0 d }) _ hs))
  | unitOutput _ _ _ hs | unitAnswer _ _ _ _ hs => exact .inr (.inr (by simp [Answers, hs]))

/-- The response a step owes: one when a command ends, none while one is outstanding (R31, R301, R313). -/
def OneResponse (s t : State) : Prop :=
  (t.phase.busy = true → responses t.outputs = responses s.outputs) ∧
  (s.phase.busy = true → t.phase.busy = false → responses t.outputs = responses s.outputs + 1) ∧
  (s.phase.busy = false → t.phase.busy = false →
    (∀ c es, s.events = .cmd c :: es →
      responses t.outputs = responses s.outputs + 1 ∨ t = { s with events := es, port := c, fault := true }) ∧
    ((∀ c es, s.events ≠ .cmd c :: es) → responses t.outputs = responses s.outputs))

/-- A step that outputs nothing and keeps the phase, and whose command, if it takes one, is a host violation. -/
theorem oneResponse_of_silent (ho : t.outputs = s.outputs) (hp : t.phase = s.phase)
    (hc : ∀ c es, s.events = .cmd c :: es → t = { s with events := es, port := c, fault := true }) :
    OneResponse s t := by
  have hr : responses t.outputs = responses s.outputs := congrArg responses ho
  refine ⟨fun _ => hr, fun hb hi => ?_, fun _ _ => ⟨fun c es he => .inr (hc c es he), fun _ => hr⟩⟩
  rw [hp, hb] at hi
  cases hi

/-- A step whose rule acts; from an idle phase only a command's does. -/
theorem oneResponse_of_answers (h : Answers s t) (hc : s.phase.busy = false → ∃ c es, s.events = .cmd c :: es) :
    OneResponse s t := by
  unfold Answers at h
  refine ⟨fun hb => by rwa [if_pos hb] at h, fun _ hi => by rwa [hi] at h, fun hs hi => ?_⟩
  rw [hi] at h
  exact ⟨fun _ _ _ => .inl h, fun hn => (hc hs).elim fun c ⟨es, he⟩ => absurd he (hn c es)⟩

/-- Settles O55: each way a step goes on is silent or answers. -/
theorem eachCommandGetsOneResponse : Obligations.EachCommandGetsOneResponse := by
  intro s t h
  suffices OneResponse s t from this
  cases step_stepped h with
  | notEnabled e es he hne =>
    refine oneResponse_of_silent rfl rfl fun c es hc => ?_
    rcases hne with ⟨rfl, -⟩ | ⟨rfl, -⟩ <;> cases he.symm.trans hc
  | wait he | arrival _ _ he | byte _ _ _ _ he =>
    exact oneResponse_of_silent rfl rfl fun c es hc => by cases he.symm.trans hc
  | badWord c es he => exact oneResponse_of_silent rfl rfl fun c' es' hc => by cases he.symm.trans hc; rfl
  | command c es i t he hi ht =>
    rcases took_answers ht with ⟨-, rfl⟩ | ⟨⟨b, hb⟩, -⟩ | ha
    · exact oneResponse_of_silent rfl rfl fun c' es' hc => by cases he.symm.trans hc; rfl
    · exact absurd hb (decodeCmd_ne_ctrl hi b)
    · exact (oneResponse_of_answers (s := s) ha fun _ => ⟨c, es, he⟩ :)
  | frame q es i t he hb _ _ hi ht =>
    rcases took_answers ht with ⟨⟨w, hw⟩, -⟩ | ⟨-, rfl⟩ | ha
    · exact absurd hw (encode_ne_cmd_of_decodeCtrl hi w)
    · exact oneResponse_of_silent rfl rfl fun c' es' hc => by cases he.symm.trans hc
    · exact oneResponse_of_answers (s := s) ha fun hn => by cases hb.symm.trans hn
  | setupResend _ _ _ hp | setupExhausted _ _ _ hp | writeResend _ _ _ hp | writeExhausted _ _ _ hp =>
    refine oneResponse_of_answers (s := s) ?_ (by simp [hp, Phase.busy])
    simp [Answers, setupResend, setupExhausted, writeResend, writeExhausted, hp, Phase.busy]

/-! ### The transport (R323) -/

@[simp] theorem opensOk_append (os ps : List Output) : opensOk (os ++ ps) = opensOk os + opensOk ps :=
  List.countP_append

@[simp] theorem closes_append (os ps : List Output) : closes (os ++ ps) = closes os + closes ps :=
  List.countP_append

@[simp] theorem opensOk_nil : opensOk [] = 0 := rfl

@[simp] theorem closes_nil : closes [] = 0 := rfl

@[simp] theorem opensOk_frame (f : List Byte) (os : List Output) : opensOk (.frame f :: os) = opensOk os :=
  List.countP_cons_of_neg (by simp)

@[simp] theorem closes_frame (f : List Byte) (os : List Output) : closes (.frame f :: os) = closes os :=
  List.countP_cons_of_neg (by simp)

@[simp] theorem opensOk_response (w : Word) (d : List Byte) (os : List Output) :
    opensOk (.response w d :: os) = opensOk os := List.countP_cons_of_neg (by simp)

@[simp] theorem closes_response (w : Word) (d : List Byte) (os : List Output) : closes (.response w d :: os) = closes os :=
  List.countP_cons_of_neg (by simp)

@[simp] theorem opensOk_transportOpen (p b : Nat) (ok : Bool) (os : List Output) :
    opensOk (.transportOpen p b ok :: os) = opensOk os + if ok then 1 else 0 := List.countP_cons

@[simp] theorem closes_transportOpen (p b : Nat) (ok : Bool) (os : List Output) :
    closes (.transportOpen p b ok :: os) = closes os := List.countP_cons_of_neg (by simp)

@[simp] theorem opensOk_transportClose (os : List Output) : opensOk (.transportClose :: os) = opensOk os :=
  List.countP_cons_of_neg (by simp)

@[simp] theorem closes_transportClose (os : List Output) : closes (.transportClose :: os) = closes os + 1 :=
  List.countP_cons_of_pos rfl

/-- The balance with the transport held now as a number. -/
theorem transportBalanced_iff (s : State) :
    s.transportBalanced ↔ opensOk s.outputs = closes s.outputs + s.topen.toNat := by
  cases h : s.topen <;> simp [State.transportBalanced, h]

theorem balanced_actOn (v : Verdict) (hb : s.transportBalanced) : (actOn v s).transportBalanced := by
  rw [transportBalanced_iff] at hb ⊢
  cases v with
  | reject | duplicate => simpa [actOn, sendRej, answerDuplicate] using hb
  | corrupt | fresh => simpa [actOn, readCorrupt, deliver] using hb

/-- A rule opens the transport from CLOSED, where it is not held, and closes it in phases where it is; an OPEN that failed
counts for nothing. -/
theorem took_balanced {i : Instr} (h : Took i s t) (htr : s.topen = true ↔ s.phase ≠ .closed)
    (hb : s.transportBalanced) : t.transportBalanced := by
  have hc := (transportBalanced_iff s).mp hb
  cases h with
  | violate | ignore | closeRx | read => exact hb
  | openFailed _ _ _ ha hok =>
    have : s.topen = false := by simpa [closed_of_openAccepted ha] using htr
    simpa [transportBalanced_iff, openFailed, openInit, this, hok] using hc
  | openTx _ _ ha hok | openRx _ _ ha hok =>
    have : s.topen = false := by simpa [closed_of_openAccepted ha] using htr
    simpa [transportBalanced_iff, openTransmitter, openReceiver, openInit, this, hok] using hc
  | closeTx | closeRxSeen => simpa [transportBalanced_iff, closeTransmitter, closeReceiverSeen] using hc
  | closeBroken _ hs | teardownAcknowledged _ hs | teardownAnswered _ hs =>
    have : s.topen = true := by simpa [hs] using htr
    simpa [transportBalanced_iff, closeBroken, teardownAcknowledged, teardownAnswered, this] using hc
  | setupReceived | setupAcknowledged => simpa [transportBalanced_iff, setupReceived, setupAcknowledged] using hc
  | teardownReceived | disconnectRequested =>
    simpa [transportBalanced_iff, teardownReceived, disconnectRequested] using hc
  | writeRefused | writeSent | writeAccepted | writeRejected =>
    simpa [transportBalanced_iff, writeRefused, writeSent, writeAccepted, writeRejected] using hc
  | unitOutput | unitAnswer => simpa [transportBalanced_iff] using hc
  | rejected => exact balanced_actOn (s := idleParser s) (.reject .header) hb
  | corrupt => exact balanced_actOn (s := idleParser s) .corrupt hb
  | judged n d => exact balanced_actOn (s := { idleParser s with dstbuf := Memory.writeAll s.dstbuf 0 d }) _ hb

/-- Settles O57: outside the rules of `took_balanced`, only R215 closes the transport. -/
theorem transportIsClosedOncePerOpen : Obligations.TransportIsClosedOncePerOpen := by
  intro s t hs hb h
  have hc := (transportBalanced_iff s).mp hb
  cases step_stepped h with
  | wait | notEnabled | arrival | badWord | byte => exact hb
  | command c es i t _ _ ht => exact took_balanced ht hs.transport hb
  | frame q es i t _ _ _ _ _ ht => exact took_balanced ht hs.transport hb
  | setupResend | writeResend | writeExhausted =>
    simpa [transportBalanced_iff, setupResend, writeResend, writeExhausted] using hc
  | setupExhausted es _ _ hp =>
    have : s.topen = true := by simpa [hp] using hs.transport
    simpa [transportBalanced_iff, setupExhausted, this] using hc

/-! ### While a WRITE is outstanding (R243) -/

/-- The rules that start in T_WAIT_ACK. -/
theorem took_of_waitAck {i : Instr} (h : Took i s t) (hs : s.phase = .tWaitAck) :
    t = hostViolation s ∨ t = idleParser s ∨ t = writeAccepted (idleParser s) ∨ t = writeRejected (idleParser s) := by
  cases h with
  | violate => exact .inl rfl
  | ignore => exact .inr (.inl rfl)
  | writeAccepted => exact .inr (.inr (.inl rfl))
  | writeRejected => exact .inr (.inr (.inr rfl))
  | openFailed _ _ _ ha | openTx _ _ ha | openRx _ _ ha => cases hs.symm.trans (closed_of_openAccepted ha)
  | unitOutput _ _ _ hb | unitAnswer _ _ _ _ hb => rw [hs] at hb; cases hb
  | closeTx _ hp | closeRx _ hp | closeRxSeen _ hp | closeBroken _ hp | setupReceived _ hp | setupAcknowledged _ hp
  | teardownAcknowledged _ hp | teardownAnswered _ hp | teardownReceived _ hp | disconnectRequested _ hp
  | writeRefused _ _ hp | writeSent _ _ _ hp | read _ hp | rejected _ _ hp | corrupt _ _ hp | judged _ _ _ hp =>
    cases hs.symm.trans hp

/-- What a step from T_WAIT_ACK leaves and sends (R243 to R247). -/
def HoldsWrite (s t : State) : Prop :=
  t.txbuf = s.txbuf ∧ t.txlen = s.txlen ∧ t.wlen = s.wlen ∧
  (t.ns = s.ns ∧ (t.phase = .tWaitAck ∨ t.phase = .broken) ∨ t.ns = s.ns ^^^ 1#1 ∧ t.phase = .opened) ∧
  ∃ os, t.outputs = s.outputs ++ os ∧ ∀ f, .frame f ∈ os →
    f = s.txFrame ∨ t.phase = .broken ∧ f = [0x7E#8, 0x03#8, 0x0B#8, 0x08#8, 0x7E#8]

theorem holdsWrite_silent (hs : s.phase = .tWaitAck) (hb : t.txbuf = s.txbuf) (hl : t.txlen = s.txlen)
    (hw : t.wlen = s.wlen) (hn : t.ns = s.ns) (hp : t.phase = s.phase) (ho : t.outputs = s.outputs) : HoldsWrite s t :=
  ⟨hb, hl, hw, .inl ⟨hn, .inl (hp.trans hs)⟩, [], by simpa using ho, by simp⟩

theorem discFrameT_bytes : discFrameT = [0x7E#8, 0x03#8, 0x0B#8, 0x08#8, 0x7E#8] := by decide

theorem took_holdsWrite {i : Instr} (h : Took i s t) (hs : s.phase = .tWaitAck) : HoldsWrite s t := by
  rcases took_of_waitAck h hs with rfl | rfl | rfl | rfl
  · exact holdsWrite_silent hs rfl rfl rfl rfl rfl rfl
  · exact holdsWrite_silent hs rfl rfl rfl rfl rfl rfl
  · exact ⟨rfl, rfl, rfl, .inr ⟨rfl, rfl⟩, _, rfl, by simp⟩
  · exact ⟨rfl, rfl, rfl, .inl ⟨rfl, .inl hs⟩, _, rfl, by simp [State.txFrame]⟩

/-- Settles O36: only the accept, the reject, the two rules that do nothing, R246 and R247 start in T_WAIT_ACK. -/
theorem outstandingWriteKeepsItsFrame : Obligations.OutstandingWriteKeepsItsFrame := by
  intro s t hs h
  suffices HoldsWrite s t from this
  cases step_stepped h with
  | wait | notEnabled | arrival | badWord | byte => exact holdsWrite_silent hs rfl rfl rfl rfl rfl rfl
  | command c es i t _ _ ht => exact (took_holdsWrite ht hs :)
  | frame q es i t _ _ _ _ _ ht => exact (took_holdsWrite ht hs :)
  | setupResend _ _ _ hp | setupExhausted _ _ _ hp => cases hs.symm.trans hp
  | writeResend =>
    rw [writeResend_eq]
    exact ⟨rfl, rfl, rfl, .inl ⟨rfl, .inl hs⟩, _, rfl, by simp [State.txFrame]⟩
  | writeExhausted =>
    rw [writeExhausted_eq]
    refine ⟨rfl, rfl, rfl, .inl ⟨rfl, .inr rfl⟩, _, rfl, fun f hf => .inr ⟨rfl, ?_⟩⟩
    simpa [discFrameT_bytes] using hf

/-! ### WRITE (R45, R241) -/

/-- Settles O32: BuildI gives a frame, and the buffer it is copied into reads it back. -/
theorem writeStoresAndSendsItsFrame : Obligations.WriteStoresAndSendsItsFrame := by
  intro s len hpar hbuf hphase hrole hdata hlen
  have hbuild := buildI_legal s.ns hpar (hdata.trans_le hlen)
  refine ⟨_, writeSent _ len s, hbuild, txFrame_writeSent len hbuf, ?_, rfl⟩
  simp [exec, execHostWrite, hphase, hrole, hdata, hlen, hbuild]

/-! ### Waiting, reset and the status port (R53, R54, R56, R201) -/

/-- Settles O7, one kind of event at a time. -/
theorem coreWaitsWithoutAnEnabledEvent : Obligations.CoreWaitsWithoutAnEnabledEvent := by
  intro s es
  refine ⟨step_nil, fun he hw => ?_, fun he ha => ?_, fun bs he => step_cons he⟩
  · rw [step_cons he]
    rcases hw with hp | hp | hp | hq
    · simp [takeEvent, takeRx, hp, Phase.busy]
    · simp [takeEvent, takeRx, hp, Phase.busy]
    · simp [takeEvent, takeRx, hp, Phase.busy]
    · simp [takeEvent, takeRx, hq]
  · rw [step_cons he]
    simp [takeEvent, takeExpiry, ha]

/-- Every register STATUS shows is a zero of the reset state. -/
theorem resetWith_statusWord (par : Params) : (State.resetWith par).statusWord = 0#32 := by
  simp [State.statusWord, State.resetWith, Role.code, Phase.code, Pos.code]

/-- Settles O47: every register named is a literal of the reset state, and so is STATUS. -/
theorem resetLeavesTheCoreClosed : Obligations.ResetLeavesTheCoreClosed := fun par =>
  ⟨rfl, rfl, rfl, rfl, rfl, rfl, rfl, rfl, rfl, by rw [resetWith_statusWord]; rfl⟩

/-- STATUS is its fields, each read back at its bits: the fields below one are dropped, and the one itself is the low end
of what is left. The width is written as the sum of the fields' widths, as the lemmas about `++` have it. -/
theorem statusWord_fields (s : State) :
    let w : BitVec (8 + 8 + 2 + 3 + 1 + 1 + 1 + 1 + 1 + 1 + 1 + 4) := s.statusWord
    w.extractLsb' 0 4 = s.phase.code ∧ w.extractLsb' 4 1 = s.role.code ∧ w.extractLsb' 5 1 = s.ns ∧
    w.extractLsb' 6 1 = s.nr ∧ w.extractLsb' 7 1 = bitOf s.timerArmed ∧ w.extractLsb' 8 1 = bitOf s.discSeen ∧
    w.extractLsb' 9 1 = bitOf s.fault ∧ w.extractLsb' 10 1 = bitOf s.topen ∧ w.extractLsb' 11 3 = s.parser.ps.code ∧
    w.extractLsb' 14 2 = 0#2 ∧ w.extractLsb' 16 8 = s.retry ∧ w.extractLsb' 24 8 = 0#8 := by
  simp [-Nat.reduceAdd, State.statusWord, BitVec.extractLsb'_append_eq_of_le, BitVec.extractLsb'_append_eq_right]

/-- A bit that was read as a one-bit field. -/
theorem getLsbD_of_extract {w : Word} {k : Nat} {b : Bool} (h : w.extractLsb' k 1 = bitOf b) : w.getLsbD k = b := by
  have := congrArg (fun v => v.getLsbD 0) h
  simpa using this

/-- The ten numbers of R30. -/
theorem phase_codes : ∀ c ∈ [(Phase.closed, 0#4), (.tSetup, 1#4), (.rSetup, 2#4), (.opened, 3#4), (.tWaitAck, 4#4),
    (.rRead, 5#4), (.tTeardown, 6#4), (.rTeardownDisc, 7#4), (.rTeardownUa, 8#4), (.broken, 9#4)], c.1.code = c.2 := by
  decide

/-- The six numbers of R42. -/
theorem pos_codes : ∀ c ∈ [(Pos.idle, 0#3), (.sawAddress, 1#3), (.sawControl, 2#3), (.sawChecksum, 3#3),
    (.inPayload, 4#3), (.done, 5#3)], c.1.code = c.2 := by
  decide

/-- Settles O48, by the fields and the numbers R30, R33 and R42 give. -/
theorem statusPortLayout : Obligations.StatusPortLayout := by
  intro s n hn w
  obtain ⟨hphase, hrole, hns, hnr, harmed, hdisc, hfault, hopen, hps, hlow, hretry, hhigh⟩ := statusWord_fields s
  have hcode : s.role.code = if s.role = .transmitter then 0#1 else 1#1 := by cases s.role <;> rfl
  have hrest : s.statusPort n = 0 := by
    unfold State.statusPort
    split_ifs <;> omega
  refine ⟨fun c hc e => ?_, hrole.trans hcode, hns, hnr, getLsbD_of_extract harmed, getLsbD_of_extract hdisc,
    getLsbD_of_extract hfault, getLsbD_of_extract hopen, fun c hc e => ?_, hlow, hretry, hhigh, rfl, rfl, rfl, rfl, rfl,
    hrest⟩
  · rw [hphase, e]
    exact phase_codes c hc
  · rw [hps, e]
    exact pos_codes c hc

end Sys2Proof.CoreState

namespace Sys2Proof.Ports

open Sys2Proof.Machine Sys2Proof.Laws Sys2Proof.Scope

variable {s : State}

/-! ### One byte through the parser (R75, R180, R201) -/

/-- InPayload is the only position where a byte asks anything of the captured control byte. -/
theorem captureBroken_eq_false {p : Parser} (h : p.ps = .inPayload → ∃ i, decodeCtrl p.pc = .ok i) :
    captureBroken p = false := by
  by_cases hp : p.ps = .inPayload
  · simp only [captureBroken, hp, (decodeCtrl_ok_iff p.pc).mp (h hp), decide_true, Bool.not_true, Bool.and_false]
  · simp only [captureBroken, hp, decide_false, Bool.false_and]

/-- A byte that does not enter Done only moves the parser, from any position whose capture is not broken. -/
theorem takeByte_moves {b : Byte} (hd : s.parser.ps ≠ .done) (hc : captureBroken s.parser = false)
    (hn : (parseByte s.par s.phase s.parser b).parser.ps ≠ .done) :
    takeByte b s = .next { s with parser := (parseStep s.par s.phase s.parser b).1 } := by
  simp only [takeByte, parseStep, hd, hc, hn, if_false, Bool.false_eq_true]

/-- While the phase is busy, taking a queued byte is taking it off the queue and parsing it (R75). -/
theorem step_rxByte {b : Byte} {q : List Byte} {es : List Event} (he : s.events = .rxByte :: es)
    (hb : s.phase.busy = true) (hq : s.rxQueue = b :: q) :
    step s = takeByte b { s with events := es, rxQueue := q } := by
  rw [step_cons he]
  simp only [takeEvent, takeRx, hb, hq, if_true]

/-- Settles O6: only the delimiter in InPayload enters Done, and the premise excludes it. -/
theorem stepFeedsOneByteToTheParser : Obligations.StepFeedsOneByteToTheParser := by
  intro s b q es he hb hq hd hp
  rw [step_rxByte he hb hq]
  refine takeByte_moves (s := { s with events := es, rxQueue := q }) hd
    (captureBroken_eq_false fun h => (hp h).2) fun hn => ?_
  obtain ⟨hin, hdelim, -⟩ := parseByte_done hd hn
  exact (hp hin).1 hdelim

/-! ### The codec's unit commands (R71, R136, R137) -/

/-- CODE 0 leaves LEN above sixteen zero bits (R105). -/
theorem respWord_ok (len : Half) : respWord len .ok = len ++ 0#16 := BitVec.append_assoc

/-- A response without data announces none, so only the output record changes (R301). -/
theorem respond_empty (c : ResultCode) (s : State) : respond c 0 [] s = { s with
    outputs := s.outputs ++ [.response (Claims.answer (codeNumber c).toNat 0) []] } := by
  rw [respond, respLen_small (Nat.zero_lt_succ _), respWord_ofNat]
  rfl

theorem respondCodec_ok (out : List Byte) (s : State) : respondCodec (.ok out) s = { s with
    unitbuf := Memory.writeAll s.unitbuf 0 out, freeCount := s.respFree out.length,
    outputs := s.outputs ++ [.response (s.respLen out.length ++ 0#16) out] } := by
  rw [← respWord_ok]
  rfl

theorem respondCodec_malformedEscape (j : Nat) (s : State) : respondCodec (.error (.malformedEscape j)) s = { s with
    outputs := s.outputs ++ [.response (Claims.answer 6 0) []] } := respond_empty .malformedEscape s

theorem respondCodec_bufferExhausted (j : Nat) (s : State) : respondCodec (.error (.bufferExhausted j)) s = { s with
    outputs := s.outputs ++ [.response (Claims.answer 5 0) []] } := respond_empty .bufferExhausted s

/-- An accepted STUFF answers what stuffing the data gives (R136). -/
theorem exec_unitStuff {len : Nat} (h : s.acceptsUnit len = true) :
    exec (.unitStuff len) s = .next (respondCodec (stuff s.par s.port.data s.par.unitCap) s) := if_pos h

/-- An accepted DESTUFF answers what destuffing the data gives (R137). -/
theorem exec_unitDestuff {len : Nat} (h : s.acceptsUnit len = true) :
    exec (.unitDestuff len) s = .next (respondCodec (destuff s.par s.port.data s.par.unitCap) s) := if_pos h

/-- Settles O45, one codec result at a time. -/
theorem codecCommandsAnswer : Obligations.CodecCommandsAnswer := by
  intro s len hidle hlen
  have ha : s.acceptsUnit len = true := (acceptsUnit_iff s len).mpr ⟨hidle, hlen⟩
  rw [exec_unitStuff ha, exec_unitDestuff ha]
  refine ⟨fun out e => ?_, fun j e => ?_, fun out e => ?_, fun j e => ?_, fun j e => ?_,
    fun n hn => ⟨respLen_small hn, respFree_small hn⟩⟩
  · rw [e, respondCodec_ok]
  · rw [e, respondCodec_bufferExhausted]
  · rw [e, respondCodec_ok]
  · rw [e, respondCodec_malformedEscape]
  · rw [e, respondCodec_bufferExhausted]

end Sys2Proof.Ports

namespace Sys2Proof.Encoding

open Sys2Proof.Machine Sys2Proof.Laws

/-! ### The word of a command whose only operand is LEN (R103) -/

@[simp] theorem fieldOp_lenWord (len : Nat) (op : BitVec 4) : fieldOp (lenWord len op) = op := fieldOp_cmdWord ..

@[simp] theorem fieldLen_lenWord (len : Nat) (op : BitVec 4) : fieldLen (lenWord len op) = BitVec.ofNat 16 len :=
  fieldLen_cmdWord ..

@[simp] theorem onlyLen_lenWord (len : Nat) (op : BitVec 4) : onlyLen (lenWord len op) = true := by
  simp [onlyLen, lenWord]

/-- A word that uses OP and LEN only is the word of its LEN and OP. -/
theorem lenWord_fields {w : Word} {op : BitVec 4} (h : onlyLen w = true) (hop : fieldOp w = op) :
    lenWord (fieldLen w).toNat op = w := by
  simp only [onlyLen, Bool.and_eq_true, decide_eq_true_eq] at h
  obtain ⟨⟨hrole, hrsv⟩, hb1⟩ := h
  rw [lenWord, BitVec.ofNat_toNat, BitVec.setWidth_eq, ← hrole, ← hb1, ← hop]
  exact cmdWord_fields w hrsv

/-- A word that uses OP only is the word of its OP. -/
theorem lenWord_zero_fields {w : Word} {op : BitVec 4} (h : (onlyLen w && fieldLen w = 0#16) = true)
    (hop : fieldOp w = op) : lenWord 0 op = w := by
  simp only [Bool.and_eq_true, decide_eq_true_eq] at h
  obtain ⟨honly, hlen⟩ := h
  simpa [hlen] using lenWord_fields honly hop

/-! ### Decoding and encoding are inverse (R93, R103, R104, R106) -/

/-- Settles O1: a control code is one of nine bytes, and a command word's fields are those it was built from. -/
theorem decodeInvertsEncode : Obligations.DecodeInvertsEncode := by
  intro i hi
  cases i with
  | ctlI0 | ctlI1 | ctlSet | ctlUa | ctlDisc | ctlRr0 | ctlRr1 | ctlRej0 | ctlRej1 => rfl
  | hostRead | hostClose => rfl
  | hostOpen role k => exact Scope.decodeCmd_openWord role (of_decide_eq_true hi)
  | hostWrite len | unitStuff len | unitDestuff len | unitPcs len =>
    have hlen : len < 65536 := of_decide_eq_true hi
    simp [decode, encode, decodeCmd, whenUnusedZero, Nat.mod_eq_of_lt hlen]
  | unitHcs a c | unitHdrchk a c bcc => simp [decode, encode, decodeCmd, whenUnusedZero]

/-- A command word that decodes is its fields: the unused ones are 0, so those the instruction holds are all of it. -/
theorem encode_of_decodeCmd {w : Word} {i : Instr} (h : decodeCmd w = .ok i) : WellFormed i ∧ encode i = .cmd w := by
  have hlen : lenFits (fieldLen w).toNat = true := decide_eq_true (fieldLen w).isLt
  unfold decodeCmd at h
  split_ifs at h with h1 h2 h3 h4 h8 h9 hA hB hC
  all_goals obtain ⟨hz, rfl⟩ := whenUnusedZero_ok.mp h
  · simp only [Bool.and_eq_true, decide_eq_true_eq] at hz
    obtain ⟨hrsv, hl⟩ := hz
    refine ⟨decide_eq_true (fieldB1 w).isLt, congrArg Code.cmd ?_⟩
    rw [code_roleOf, BitVec.ofNat_toNat, BitVec.setWidth_eq, ← hl, ← h1, cmdWord_fields w hrsv]
  · exact ⟨hlen, congrArg Code.cmd (lenWord_fields hz h2)⟩
  · exact ⟨rfl, congrArg Code.cmd (lenWord_zero_fields hz h3)⟩
  · exact ⟨rfl, congrArg Code.cmd (lenWord_zero_fields hz h4)⟩
  · exact ⟨hlen, congrArg Code.cmd (lenWord_fields hz h8)⟩
  · exact ⟨hlen, congrArg Code.cmd (lenWord_fields hz h9)⟩
  · simp only [Bool.and_eq_true, decide_eq_true_eq] at hz
    obtain ⟨⟨hrole, hrsv⟩, hb3⟩ := hz
    refine ⟨rfl, congrArg Code.cmd ?_⟩
    rw [← hb3, fieldLen_bytes, ← hrole, ← hA, cmdWord_fields w hrsv]
  · exact ⟨hlen, congrArg Code.cmd (lenWord_fields hz hB)⟩
  · simp only [Bool.and_eq_true, decide_eq_true_eq] at hz
    obtain ⟨hrole, hrsv⟩ := hz
    refine ⟨rfl, congrArg Code.cmd ?_⟩
    rw [fieldLen_bytes, ← hrole, ← hC, cmdWord_fields w hrsv]

theorem wellFormed_of_decodeCtrl {b : Byte} {i : Instr} (h : decodeCtrl b = .ok i) : WellFormed i := by
  rcases decodeCtrl_cases h with h | h | h | h | h | h | h | h | h <;> obtain ⟨-, rfl⟩ := h <;> rfl

/-- Settles O2: a control byte that decodes is one of the nine, and a command word is its fields. -/
theorem decodedWordsAreEncodings : Obligations.DecodedWordsAreEncodings := by
  intro c i h
  cases c with
  | ctrl b => exact ⟨wellFormed_of_decodeCtrl h, CoreState.decodeCtrl_encode h⟩
  | cmd w => exact encode_of_decodeCmd h

/-- Settles O3, by running the decoder on each word. -/
theorem wordsOfTheSpecDecode : Obligations.WordsOfTheSpecDecode :=
  ⟨rfl, rfl, rfl, rfl, rfl, rfl, rfl, rfl, rfl, rfl, rfl, rfl, rfl, rfl, rfl⟩

/-- Settles O16, at each of the eighteen headers. -/
theorem headersHoldNoReservedByte : Obligations.HeadersHoldNoReservedByte := by
  suffices h : ∀ a ∈ [0x01#8, 0x03#8], ∀ c ∈ sCtrl ++ iCtrl,
      a ^^^ c ∈ [0x00#8, 0x01#8, 0x02#8, 0x03#8, 0x04#8, 0x06#8, 0x08#8, 0x0A#8, 0x41#8, 0x43#8, 0x80#8, 0x82#8, 0x84#8,
        0x86#8] ∧ ∀ b ∈ [a, c, a ^^^ c], b ≠ 0x7E#8 ∧ b ≠ 0x7D#8 from
    fun a c ha hc => ⟨rfl, h a ha c hc⟩
  decide

/-! ### Commands that are host violations (R312, R313) -/

/-- Settles O4: taking a command presents it at the port and runs what its word decodes to. -/
theorem stepRunsDecodedCommand : Obligations.StepRunsDecodedCommand := by
  intro s c es i he hi
  simp only [step_cons he, takeEvent, takeCommand, hi]

/-- Every encoding has the bits its row of the opcode table fixes (R93, R104). -/
theorem fixedBits (i : Instr) : FixedBits.Statement i := by
  cases i with
  | ctlI0 | ctlI1 | ctlSet | ctlUa | ctlDisc | ctlRr0 | ctlRr1 | ctlRej0 | ctlRej1 => rfl
  | hostRead | hostClose => rfl
  | hostOpen role k => exact FixedBits.hostOpen role k
  | hostWrite len | unitStuff len | unitDestuff len | unitPcs len => exact FixedBits.lenCommand len _
  | unitHcs a c => exact FixedBits.unitHcs a c
  | unitHdrchk a c bcc => exact FixedBits.unitHdrchk a c bcc

section Masked

variable {w m v u : Word}

/-- A row whose mask covers OP fixes it. -/
theorem op_of_masked (h : w &&& m = v) (hm : m &&& 0xF#32 = 0xF#32) : w.toNat % 16 = v.toNat % 16 := by
  have op (x : Word) : x.toNat % 16 = (x &&& 0xF#32).toNat := (Nat.and_two_pow_sub_one_eq_mod x.toNat 4).symm
  rw [op w, op v, ← h, BitVec.and_assoc, hm]

/-- A row fixes the bits `u` that its mask covers, to 0 where its value has none of them. -/
theorem and_eq_zero_of_masked (h : w &&& m = v) (hm : m &&& u = u) (hv : v &&& u = 0#32) : w &&& u = 0#32 := by
  rw [← hm, ← BitVec.and_assoc, h, hv]

end Masked

/-- A reserved OP, or a nonzero bit in a field the OP does not use (R103, R104, R312 a, b). -/
def Misencoded (w : Word) : Prop :=
  w.toNat % 16 ∈ [0x0, 0x5, 0x6, 0x7, 0xD, 0xE, 0xF] ∨
  w.toNat % 16 = 0x1 ∧ w &&& 0xFFFF00E0#32 ≠ 0#32 ∨
  w.toNat % 16 ∈ [0x2, 0x8, 0x9, 0xB] ∧ w &&& 0x0000FFF0#32 ≠ 0#32 ∨
  w.toNat % 16 ∈ [0x3, 0x4] ∧ w &&& 0xFFFFFFF0#32 ≠ 0#32 ∨
  w.toNat % 16 = 0xA ∧ w &&& 0xFF0000F0#32 ≠ 0#32 ∨
  w.toNat % 16 = 0xC ∧ w &&& 0x000000F0#32 ≠ 0#32

/-- A word that decodes is an encoding, so its row of the opcode table fixes OP and the bits OP leaves unused. -/
theorem not_misencoded_of_decodeCmd {w : Word} {i : Instr} (h : decodeCmd w = .ok i) : ¬ Misencoded w := by
  have hrow : FixedBits.Matches (FixedBits.row i) (.cmd w) := (encode_of_decodeCmd h).2 ▸ fixedBits i
  cases i with
  | ctlI0 | ctlI1 | ctlSet | ctlUa | ctlDisc | ctlRr0 | ctlRr1 | ctlRej0 | ctlRej1 => exact hrow.elim
  | hostOpen =>
    have hu : w &&& 0xFFFF00E0#32 = 0#32 := and_eq_zero_of_masked hrow rfl rfl
    simp [Misencoded, op_of_masked hrow rfl, hu]
  | hostWrite | unitStuff | unitDestuff | unitPcs =>
    have hu : w &&& 0x0000FFF0#32 = 0#32 := and_eq_zero_of_masked hrow rfl rfl
    simp [Misencoded, op_of_masked hrow rfl, hu]
  | hostRead | hostClose =>
    have hu : w &&& 0xFFFFFFF0#32 = 0#32 := and_eq_zero_of_masked hrow rfl rfl
    simp [Misencoded, op_of_masked hrow rfl, hu]
  | unitHcs =>
    have hu : w &&& 0xFF0000F0#32 = 0#32 := and_eq_zero_of_masked hrow rfl rfl
    simp [Misencoded, op_of_masked hrow rfl, hu]
  | unitHdrchk =>
    have hu : w &&& 0x000000F0#32 = 0#32 := and_eq_zero_of_masked hrow rfl rfl
    simp [Misencoded, op_of_masked hrow rfl, hu]

/-- Settles O8: a word that decodes has none of these bits, and a word that does not is a host violation. -/
theorem undecodableCommandsAreViolations : Obligations.UndecodableCommandsAreViolations := by
  intro s c es he hbad
  simp only [step_cons he, takeEvent, takeCommand]
  cases hd : decodeCmd c.word with
  | ok i => exact absurd hbad (not_misencoded_of_decodeCmd hd)
  | error e => rfl

/-- What each command's acceptance test asks of the core (R312 c to h); no frame is tested. -/
def Accepted (s : State) : Instr → Prop
  | .hostOpen role k => openAccepted role (BitVec.ofNat 8 k) s = true
  | .hostWrite len => s.phase = .opened ∧ s.role = .transmitter ∧ s.port.data.length = len
  | .hostRead => s.phase = .opened ∧ s.role = .receiver ∧ s.port.data.length = 0
  | .hostClose => (s.phase = .opened ∨ s.phase = .broken) ∧ s.port.data.length = 0
  | .unitStuff len | .unitDestuff len | .unitPcs len => s.acceptsUnit len = true
  | .unitHcs _ _ | .unitHdrchk _ _ _ => s.acceptsUnit 0 = true
  | _ => True

/-- CLOSE has a rule in OPEN and in BROKEN only (R230). -/
theorem execHostClose_of_not_accepted {s : State} (h : ¬ Accepted s .hostClose) : execHostClose s = violate s := by
  unfold execHostClose
  split
  · rename_i hd
    have hp : ¬ (s.phase = .opened ∨ s.phase = .broken) := fun hp => h ⟨hp, (dataFits_iff s 0).mp hd⟩
    cases hs : s.phase with
    | opened => exact absurd (.inl hs) hp
    | broken => exact absurd (.inr hs) hp
    | closed | tSetup | rSetup | tWaitAck | rRead | tTeardown | rTeardownDisc | rTeardownUa => rfl
  · rfl

/-- A command whose acceptance test fails is a host violation (R313). -/
theorem exec_of_not_accepted {i : Instr} {s : State} (h : ¬ Accepted s i) : exec i s = .next { s with fault := true } := by
  cases i with
  | ctlI0 | ctlI1 | ctlSet | ctlUa | ctlDisc | ctlRr0 | ctlRr1 | ctlRej0 | ctlRej1 => exact absurd trivial h
  | hostOpen | unitStuff | unitDestuff | unitHcs | unitPcs | unitHdrchk => exact if_neg h
  | hostWrite | hostRead => exact if_neg (by simpa [Accepted, and_assoc] using h)
  | hostClose => exact execHostClose_of_not_accepted h

/-- An accepted command finds an idle phase and the data it announces (R31, R312 c, h). -/
theorem idle_of_accepted {i : Instr} {w : Word} {s : State} (hi : encode i = .cmd w) (h : Accepted s i) :
    s.phase.busy = false ∧ s.port.data.length = i.dataLen := by
  cases i with
  | ctlI0 | ctlI1 | ctlSet | ctlUa | ctlDisc | ctlRr0 | ctlRr1 | ctlRej0 | ctlRej1 => cases hi
  | hostOpen =>
    obtain ⟨hp, -, hd⟩ := (openAccepted_iff ..).mp h
    exact ⟨hp ▸ rfl, hd⟩
  | hostWrite | hostRead =>
    obtain ⟨hp, -, hd⟩ := h
    exact ⟨hp ▸ rfl, hd⟩
  | hostClose =>
    obtain ⟨hp | hp, hd⟩ := h
    · exact ⟨hp ▸ rfl, hd⟩
    · exact ⟨hp ▸ rfl, hd⟩
  | unitStuff | unitDestuff | unitHcs | unitPcs | unitHdrchk => exact (acceptsUnit_iff ..).mp h

/-- Settles O9: an accepted command meets none of the premises, and one that is not accepted is a host violation. -/
theorem unacceptedCommandsAreViolations : Obligations.UnacceptedCommandsAreViolations := by
  intro i w s _ hi hbad
  refine exec_of_not_accepted fun ha => ?_
  obtain ⟨hidle, hdata⟩ := idle_of_accepted hi ha
  rcases hbad with hb | hn | ⟨r, k, rfl, h⟩ | ⟨n, rfl, h⟩ | ⟨rfl, h⟩ | ⟨rfl, h⟩
  · cases hidle.symm.trans hb
  · exact hn hdata
  · obtain ⟨hp, hr, -⟩ := (openAccepted_iff ..).mp ha
    rcases h with h | ⟨rfl, rfl⟩
    · exact h hp
    · simp at hr
  · obtain ⟨hp, hr, -⟩ := ha
    simp [hp, hr] at h
  · obtain ⟨hp, hr, -⟩ := ha
    simp [hp, hr] at h
  · obtain ⟨hp, -⟩ := ha
    simp [h] at hp

end Sys2Proof.Encoding

namespace Sys2Proof.Delivery

open Sys2Proof.Machine Sys2Proof.Laws Sys2Proof.Scope

/-! ### Bytes that fill the parser's slots (R183 to R196) -/

/-- Bytes of which none ends a frame lead the parser from one set of registers to another. -/
inductive Feeds (par : Params) (ph : Phase) : Parser → List Byte → Parser → Prop where
  | nil (p : Parser) : Feeds par ph p [] p
  | cons {p q : Parser} {b : Byte} {bs : List Byte} : p.ps ≠ .done → (parseByte par ph p b).parser.ps ≠ .done →
      Feeds par ph (parseByte par ph p b).parser bs q → Feeds par ph p (b :: bs) q

/-- The slots a frame's opening delimiter is read in: all but InPayload (R183, R185, R188, R191). -/
def BeforePayload (p : Parser) : Prop :=
  p.ps = .idle ∨ p.ps = .sawAddress ∨ p.ps = .sawControl ∨ p.ps = .sawChecksum

section Slots

variable {par : Params} {ph : Phase} {p q r : Parser} {bs cs : List Byte}

/-- One byte whose transition is known. -/
theorem Feeds.byte {b : Byte} (hd : p.ps ≠ .done) (hp : (parseByte par ph p b).parser = q) (hq : q.ps ≠ .done)
    (h : Feeds par ph q bs r) : Feeds par ph p (b :: bs) r := by
  subst hp
  exact .cons hd hq h

theorem Feeds.append (h : Feeds par ph p bs q) (h' : Feeds par ph q cs r) : Feeds par ph p (bs ++ cs) r := by
  induction h with
  | nil => exact h'
  | cons hd hn _ ih => exact .cons hd hn (ih h')

/-- Before InPayload a delimiter starts a frame, or is padding before one (R183, R185, R188, R191). -/
theorem parseByte_delim (h : BeforePayload p) : (parseByte par ph p delim).parser = { p with ps := .sawAddress } := by
  obtain ⟨ps, pa, pc, pbcc, rawbuf, rawlen⟩ := p
  rcases h with rfl | rfl | rfl | rfl <;> rfl

/-- The four bytes of a legal header fill the slots, whatever part of a header came before (R202). -/
theorem feeds_header {a c : Byte} (h : BeforePayload p) (ha : a ∈ addrSet) (hc : c ∈ ctrlSet ph) :
    Feeds par ph p [delim, a, c, hcs a c] (atDelimiter a c p) := by
  obtain ⟨hda, hdc, hdx⟩ := header_ne_delim a ha c (ctrlSet_sub hc)
  have hd : p.ps ≠ .done := by rcases h with h | h | h | h <;> simp [h]
  refine .byte hd (parseByte_delim h) nofun ?_
  refine .byte nofun (parseByte_address rfl hda ha) nofun ?_
  refine .byte nofun (parseByte_control rfl hdc hc) nofun ?_
  exact .byte nofun (parseByte_checksum rfl hdx) nofun (.nil _)

/-- A byte of an I-frame's region is buffered as it is (R196). -/
theorem parseByte_buffers {b : Byte} (h : p.ps = .inPayload) (hd : b ≠ delim) (hc : p.pc ∉ sCtrl)
    (hl : p.rawlen < par.rawCap) : (parseByte par ph p b).parser =
      { p with rawbuf := Memory.write p.rawbuf p.rawlen b, rawlen := p.rawlen + 1 } := by
  simp [parseByte, h, parsePayload, Parsed.to, hd, hc, hl]

/-- The region of an I-frame is written to the raw buffer, byte after byte (R196). -/
theorem feeds_region {d : List Byte} (h : p.ps = .inPayload) (hd : delim ∉ d) (hc : p.pc ∉ sCtrl)
    (hl : p.rawlen + d.length ≤ par.rawCap) : Feeds par ph p d
      { p with rawbuf := Memory.writeAll p.rawbuf p.rawlen d, rawlen := p.rawlen + d.length } := by
  induction d generalizing p with
  | nil => exact .nil p
  | cons b d ih =>
    obtain ⟨hb, hd⟩ := List.ne_and_not_mem_of_not_mem_cons hd
    rw [List.length_cons] at hl
    have rest := ih (p := { p with rawbuf := Memory.write p.rawbuf p.rawlen b, rawlen := p.rawlen + 1 }) h hd hc
      (by dsimp only; omega)
    refine .byte (by simp [h]) (parseByte_buffers h hb.symm hc (by omega)) (by simp [h]) ?_
    rw [List.length_cons, Nat.add_comm d.length, ← Nat.add_assoc]
    exact rest

end Slots

/-! ### Runs that read bytes (R75, R314) -/

/-- Reading bytes that end no frame moves the parser and the queue, and nothing else. -/
theorem run_feeds {s : State} {bs q : List Byte} {es : List Event} {p : Parser}
    (h : Feeds s.par s.phase s.parser bs p) (hb : s.phase.busy = true) (hc : Captured s.parser)
    (hq : s.rxQueue = bs ++ q) (he : s.events = Claims.reads bs.length ++ es) :
    Host.Core.run Sys2Proof.core bs.length s = .next { s with events := es, rxQueue := q, parser := p } := by
  generalize hpar : s.par = par at h
  generalize hph : s.phase = ph at h
  generalize hr : s.parser = r at h
  induction h generalizing s with
  | nil p =>
    subst hpar hph hr
    obtain rfl : s.rxQueue = q := hq
    obtain rfl : s.events = es := he
    rfl
  | cons hd hn _ ih =>
    subst hpar hph hr
    rw [List.length_cons, run_succ (step_byte he hb hq hd hc hn)]
    exact ih hb (captured_parses hc (parseByte_parses hd)) rfl rfl rfl rfl rfl

/-- The closing delimiter runs the captured control byte's instruction (R193, R199). -/
theorem step_delim {s : State} {q : List Byte} {es : List Event} {i : Instr} (he : s.events = .rxByte :: es)
    (hb : s.phase.busy = true) (hq : s.rxQueue = delim :: q) (hp : s.parser.ps = .inPayload)
    (hi : decodeCtrl s.parser.pc = .ok i) :
    step s = exec i { s with events := es, rxQueue := q, parser := { s.parser with ps := .done } } := by
  rw [← offer_delim (s := { s with events := es }) hb hq hp hi, offer_eq, step_cons he]
  rfl

/-! ### An information frame read whole (R97, R202, R266, R270) -/

/-- The parser before the closing delimiter of an information frame with the region `d`. -/
def atRegionEnd (a c : Byte) (d : List Byte) (p : Parser) : Parser :=
  { atDelimiter a c p with rawbuf := Memory.writeAll p.rawbuf 0 d, rawlen := d.length }

theorem feeds_infoFrame {par : Params} {ph : Phase} {p : Parser} {a c : Byte} {d : List Byte}
    (h : BeforePayload p) (ha : a ∈ addrSet) (hc : c ∈ ctrlSet ph) (hi : c ∉ sCtrl) (hd : delim ∉ d)
    (hl : d.length ≤ par.rawCap) :
    Feeds par ph p ([delim, a, c, hcs a c] ++ d) (atRegionEnd a c d p) := by
  have region := feeds_region (par := par) (ph := ph) (p := atDelimiter a c p) rfl hd hi
    (by simpa [atDelimiter] using hl)
  rw [show (atDelimiter a c p).rawlen + d.length = d.length from Nat.zero_add _] at region
  exact (feeds_header h ha hc).append region

/-- The core that has read such a frame, with `q` and `es` after it, when it runs the frame's instruction. -/
def atFrameEnd (a c : Byte) (d q : List Byte) (es : List Event) (s : State) : State :=
  { s with events := es, rxQueue := q, parser := { atRegionEnd a c d s.parser with ps := .done } }

/-- The raw region the instruction judges is the frame's. -/
theorem atFrameEnd_raw (a c : Byte) (d q : List Byte) (es : List Event) {s : State} (h : s.parser.rawbuf.wf) :
    (atFrameEnd a c d q es s).parser.raw = d := memory_slice_writeAll h d

/-- Reading a whole information frame from a slot before InPayload is running its instruction (R202). -/
theorem run_infoFrame {s t : State} {a c : Byte} {d q : List Byte} {es : List Event} {i : Instr}
    (hb : s.phase.busy = true) (hc : Captured s.parser) (hps : BeforePayload s.parser)
    (ha : a ∈ addrSet) (hctl : c ∈ ctrlSet s.phase) (hinfo : c ∉ sCtrl) (hd : delim ∉ d) (hl : d.length ≤ s.par.rawCap)
    (hq : s.rxQueue = [delim, a, c, hcs a c] ++ d ++ [delim] ++ q) (he : s.events = Claims.reads (d.length + 5) ++ es)
    (hi : decodeCtrl c = .ok i) (ht : exec i (atFrameEnd a c d q es s) = .next t) :
    Host.Core.run Sys2Proof.core (d.length + 5) s = .next t := by
  have hlen : d.length + 5 = ([delim, a, c, hcs a c] ++ d).length + 1 := by simp
  rw [hlen, Claims.reads, List.replicate_succ', List.append_assoc, List.singleton_append] at he
  rw [List.append_assoc _ [delim] q, List.singleton_append] at hq
  have body := run_feeds (feeds_infoFrame hps ha hctl hinfo hd hl) hb hc hq he
  have closing := step_delim (s := { s with
    events := .rxByte :: es, rxQueue := delim :: q, parser := atRegionEnd a c d s.parser }) rfl hb rfl rfl hi
  rw [hlen, run_add body 1, run_succ (closing.trans ht), run_zero]

theorem exec_infoInstr (n : Bit) (s : State) : exec (Claims.infoInstr n) s = takeInfo n s := by
  rcases bit_cases n with rfl | rfl <;> rfl

theorem decodeCtrl_ctrlI (n : Bit) : decodeCtrl (ctrlI n) = .ok (Claims.infoInstr n) := by
  rcases bit_cases n with rfl | rfl <;> rfl

theorem ctrlI_mem (n : Bit) : ctrlI n ∈ ctrlSet .rRead ∧ ctrlI n ∉ sCtrl := by revert n; decide

theorem rrFrame_bytes (n : Bit) : rrFrame n = Claims.rrBytes n := by revert n; decide

/-- R270, from the frame in the parser: the expected sequence bit and a region that destuffs to a payload and its checksum. -/
theorem takeInfo_fresh {s : State} {p : List Byte} (hs : s.phase = .rRead) (ha : s.parser.pa = addrT)
    (hx : s.parser.pbcc = hcs addrT (ctrlI s.nr)) (hd : destuff s.par s.parser.raw s.par.dstCap = .ok (infoBody p)) :
    takeInfo s.nr s =
      .next (deliver p { idleParser s with dstbuf := Memory.writeAll s.dstbuf 0 (infoBody p) }) := by
  have hout : frameOut (ctrlI s.nr) s.parser = .candidate addrT (ctrlI s.nr) s.parser.raw := by
    simp [frameOut, ha, hx]
  have hregion := receiveRegion_destuffed (s := idleParser s) (n := s.nr) hd
  rw [idleParser_nr, infoBody, judge_fresh] at hregion
  simp only [takeInfo, hs, hout, hregion, if_true]
  rfl

/-- The response to a delivered payload of legal length (R105, R270). -/
theorem deliver_outputs {p : List Byte} (hp : p.length < 65536) (s : State) : (deliver p s).outputs =
    s.outputs ++ [.frame (Claims.rrBytes s.nr.flip), .response (Claims.answer 0 p.length) p] := by
  simp [deliver, hp, respWord_ofNat, rrFrame_bytes, codeNumber, Claims.answer]

/-- Settles O43: the parser finds the frame, its region destuffs to the payload and its checksum, and R270 delivers it. -/
theorem framedPayloadIsDelivered : Obligations.FramedPayloadIsDelivered := by
  intro s p f q es hpar hp hs hps hwf hf hq he
  obtain ⟨d, hbuild, -, hfit, hdelim, hback⟩ := infoFramesHaveTheirForm s.par s.nr p hpar hp
  rw [← ctrlI_eq_infoCode] at hbuild
  obtain rfl : infoFrame s.nr d = f := Except.ok.inj (hbuild.symm.trans hf)
  obtain ⟨-, hmax, hcap, -, -⟩ := hpar
  have hraw := atFrameEnd_raw addrT (ctrlI s.nr) d q es hwf
  have hend := takeInfo_fresh (s := atFrameEnd addrT (ctrlI s.nr) d q es s) hs rfl rfl (hraw.symm ▸ hback)
  obtain ⟨hctl, hinfo⟩ := ctrlI_mem s.nr
  have run := run_infoFrame (hs ▸ rfl) (captured_of_early (hps.imp_right .inl)) (hps.imp_right .inl) (by decide)
    (hs ▸ hctl) hinfo hdelim (by omega) hq (infoFrame_length s.nr d ▸ he) (decodeCtrl_ctrlI s.nr)
    ((exec_infoInstr ..).trans hend)
  rw [infoFrame_length]
  refine ⟨_, run, rfl, rfl, rfl, rfl, rfl, rfl, ?_, deliver_outputs (by omega) _⟩
  simp [Claims.SameOutsideReceiver, deliver, atFrameEnd, show p.length < 65536 by omega]

end Sys2Proof.Delivery

namespace Sys2Proof.Codec

open Sys2Proof.Machine Sys2Proof.Laws Sys2Proof.Scope

variable {par : Params} {cap i n : Nat}

/-! ### The round trip and the delimiter (R133, R134) -/

/-- Settles O11: what stuff gives is the concatenated pieces, and a scan over a piece puts back its byte. -/
theorem destuffInvertsStuff : Obligations.DestuffInvertsStuff := by
  intro par x y c1 c2 hm hs hx
  obtain ⟨rfl, -⟩ := stuff_ok_iff.mp hs
  exact destuff_stuffed hm hx

/-- Settles O12: what stuff gives is the concatenated pieces, and none holds a delimiter. -/
theorem stuffedBytesHoldNoDelimiter : Obligations.StuffedBytesHoldNoDelimiter := by
  intro par x y cap hm hs
  obtain ⟨rfl, -⟩ := stuff_ok_iff.mp hs
  exact delim_notMem_stuffed hm x

/-! ### Length bounds (R135) -/

/-- Only the two reserved bytes take a second byte (R130). -/
theorem stuffPiece_length (par : Params) (b : Byte) :
    (stuffPiece par b).length = if b = delim ∨ b = escByte then 2 else 1 := by
  by_cases hd : b = delim
  · simp [hd, stuffPiece_delim]
  · by_cases he : b = escByte
    · simp [he, stuffPiece_escByte]
    · simp [hd, he, stuffPiece_plain]

/-- R135's exact length. -/
theorem stuffed_length (par : Params) (x : List Byte) :
    (x.flatMap (stuffPiece par)).length = x.length + x.countP (fun b => b = delim || b = escByte) := by
  induction x with
  | nil => rfl
  | cons b x ih =>
    rw [List.flatMap_cons, List.length_append, ih, stuffPiece_length, List.countP_cons, List.length_cons]
    simp only [Bool.or_eq_true, decide_eq_true_eq]
    split_ifs <;> omega

/-- What R135 says of a destuff's result, for a scan of `len` bytes with `n` bytes already in the output: an output is
no longer than what was scanned, and only an input longer than the capacity left exhausts it. -/
def ScanBound (cap n len : Nat) : Except CodecError (List Byte) → Prop
  | .ok out => out.length ≤ len
  | .error (.malformedEscape _) => True
  | .error (.bufferExhausted _) => cap < n + len

/-- A byte put before the rest of the output took at least one byte of the input. -/
theorem ScanBound.prepend {len len' : Nat} {r : Except CodecError (List Byte)} (d : Byte) (hl : len + 1 ≤ len')
    (h : ScanBound cap (n + 1) len r) : ScanBound cap n len' (prepend [d] r) := by
  match r, h with
  | .ok out, (h : out.length ≤ len) => exact (Nat.succ_le_succ h).trans hl
  | .error (.malformedEscape _), _ => trivial
  | .error (.bufferExhausted _), (h : cap < n + 1 + len) => exact h.trans_le (by omega)

theorem destuffFrom_scanBound (y : List Byte) : ScanBound cap n y.length (destuffFrom par cap i n y) := by
  fun_induction destuffFrom par cap i n y with
  | case1 => exact Nat.zero_le _
  | case2 | case3 => trivial
  | case4 i n m y d hm hfull => exact hfull.trans_le (by simp)
  | case5 i n m y d hm hroom ih => exact ih.prepend d (by simp)
  | case6 i n b y hb hfull => exact hfull.trans_le (by simp)
  | case7 i n b y hb hroom ih => exact ih.prepend b (by simp)

/-- Settles O13: the exact length bounds a stuffed sequence, and a destuff's result is bounded by its scan. -/
theorem codecLengthBounds : Obligations.CodecLengthBounds := by
  intro par x y z cap
  have bound := destuffFrom_scanBound (par := par) (cap := cap) (i := 0) (n := 0) y
  refine ⟨fun hs => ?_, fun hd => ?_, fun hcap => ?_, fun hcap j hd => ?_⟩
  · obtain ⟨rfl, -⟩ := stuff_ok_iff.mp hs
    exact ⟨length_le_stuffed par x, stuffed_length_le par x, stuffed_length par x⟩
  · rwa [← destuff, hd] at bound
  · exact ⟨_, stuff_ok_iff.mpr ⟨rfl, (stuffed_length_le par x).trans hcap⟩⟩
  · rw [← destuff, hd] at bound
    have : cap < 0 + y.length := bound
    omega

/-! ### The scan's first error (R130, R131, R300) -/

@[simp] theorem prepend_nil (r : Except CodecError (List Byte)) : prepend [] r = r := by cases r <;> rfl

theorem prepend_prepend (a b : List Byte) (r : Except CodecError (List Byte)) :
    prepend a (prepend b r) = prepend (a ++ b) r := by
  cases r with
  | ok out => rw [prepend_ok, prepend_ok, prepend_ok, List.append_assoc]
  | error e => rfl

/-- After a part that scans without error, stuff's scan goes on behind it. -/
theorem stuffFrom_append {pre out : List Byte} (h : stuffFrom par cap i n pre = .ok out) (rest : List Byte) :
    stuffFrom par cap i n (pre ++ rest) = prepend out (stuffFrom par cap (i + pre.length) (n + out.length) rest) := by
  fun_induction stuffFrom par cap i n pre generalizing out with
  | case1 i n =>
    cases h
    exact (prepend_nil _).symm
  | case2 => cases h
  | case3 i n b x hroom ih =>
    obtain ⟨tail, htail, rfl⟩ := prepend_eq_ok.mp h
    rw [List.cons_append, stuffFrom, if_neg hroom, ih htail, prepend_prepend, List.length_append, List.length_cons,
      Nat.add_assoc n, Nat.add_right_comm i, Nat.add_assoc i]

/-- After a part that scans without error, destuff's scan goes on behind it. -/
theorem destuffFrom_append {pre out : List Byte} (h : destuffFrom par cap i n pre = .ok out) (rest : List Byte) :
    destuffFrom par cap i n (pre ++ rest) =
      prepend out (destuffFrom par cap (i + pre.length) (n + out.length) rest) := by
  fun_induction destuffFrom par cap i n pre generalizing out with
  | case1 i n =>
    cases h
    exact (prepend_nil _).symm
  | case2 | case3 | case4 | case6 => cases h
  | case5 i n m y d hm hroom ih =>
    obtain ⟨tail, htail, rfl⟩ := prepend_eq_ok.mp h
    rw [List.cons_append, List.cons_append, destuffFrom_pair hm, if_neg hroom, ih htail, prepend_prepend]
    simp only [List.length_append, List.length_cons, List.length_nil]
    congr 2 <;> omega
  | case7 i n b y hb hroom ih =>
    obtain ⟨tail, htail, rfl⟩ := prepend_eq_ok.mp h
    rw [List.cons_append, destuffFrom_plain hb, if_neg hroom, ih htail, prepend_prepend]
    simp only [List.length_append, List.length_cons, List.length_nil]
    congr 2 <;> omega

/-- An error right behind a part that stuffs is the whole scan's error. -/
theorem stuff_append_error {pre out rest : List Byte} {e : CodecError} (h : stuff par pre cap = .ok out)
    (he : stuffFrom par cap pre.length out.length rest = .error e) : stuff par (pre ++ rest) cap = .error e := by
  rw [stuff, stuffFrom_append h, Nat.zero_add, Nat.zero_add, he, prepend_error]

/-- An error right behind a part that destuffs is the whole scan's error. -/
theorem destuff_append_error {pre out rest : List Byte} {e : CodecError} (h : destuff par pre cap = .ok out)
    (he : destuffFrom par cap pre.length out.length rest = .error e) : destuff par (pre ++ rest) cap = .error e := by
  rw [destuff, destuffFrom_append h, Nat.zero_add, Nat.zero_add, he, prepend_error]

theorem unescape_eq_none {m : Byte} (hf : m ≠ par.escFlagMark) (he : m ≠ par.escEscMark) : unescape par m = none := by
  simp [unescape, hf, he]

theorem unescape_marker {m : Byte} (h : m = par.escFlagMark ∨ m = par.escEscMark) : ∃ d, unescape par m = some d := by
  unfold unescape
  split_ifs with hf he
  · exact ⟨_, rfl⟩
  · exact ⟨_, rfl⟩
  · exact absurd h (not_or_intro hf he)

/-- Settles O14: each clause names the case of R130 or R131 that the scan meets behind the part without error. -/
theorem codecScanRaisesTheFirstError : Obligations.CodecScanRaisesTheFirstError := by
  intro par cap pre out rest b
  refine ⟨fun hs hfull => ?_, fun hd => ⟨?_, fun hf he => ?_, fun hm hfull => ?_, fun hb hfull => ?_⟩⟩
  · have full : cap < out.length + (stuffPiece par b).length := stuffPiece_length par b ▸ hfull
    exact stuff_append_error hs (if_pos full)
  · exact destuff_append_error hd destuffFrom_truncated
  · exact destuff_append_error hd (destuffFrom_badMarker (unescape_eq_none hf he))
  · obtain ⟨d, hm⟩ := unescape_marker hm
    exact destuff_append_error hd ((destuffFrom_pair hm).trans (if_pos hfull))
  · exact destuff_append_error hd ((destuffFrom_plain hb).trans (if_pos hfull))

end Sys2Proof.Codec

namespace Sys2Proof.Transfer

open Sys2Proof.Machine Sys2Proof.Laws Sys2Proof.Scope Sys2Proof.Delivery

/-! ### The two commands are accepted (R241, R260) -/

/-- An accepted READ waits in R_READ (R260). -/
theorem exec_hostRead {s : State} (hp : s.phase = .opened) (hr : s.role = .receiver) (hd : s.port.data.length = 0) :
    exec .hostRead s = .next { s with parser := { s.parser with ps := .idle, rawlen := 0 }, phase := .rRead } :=
  if_pos (by simp [hp, hr, List.length_eq_zero_iff.mp hd])

/-- An accepted WRITE sends the frame that BuildI gives (R241). -/
theorem exec_hostWrite {s : State} {len : Nat} {f : List Byte} (hp : s.phase = .opened) (hr : s.role = .transmitter)
    (hd : s.port.data.length = len) (hl : len ≤ s.par.maxPayload) (hf : buildI s.par s.ns s.port.data = .ok f) :
    exec (.hostWrite len) s = .next (writeSent f len s) := by
  simp [exec, execHostWrite, hp, hr, hd, hl, hf]

/-- The Receiver's READ. -/
def readCommand : Command := Claims.plain 0x00000003#32 []

/-- The Transmitter's WRITE of `p`. -/
def writeCommand (p : List Byte) : Command := Claims.plain (BitVec.ofNat 32 (p.length * 65536 + 2)) p

theorem decodeCmd_readCommand : decodeCmd readCommand.word = .ok .hostRead := by decide

theorem decodeCmd_writeCommand {p : List Byte} (hp : p.length < 65536) :
    decodeCmd (writeCommand p).word = .ok (.hostWrite p.length) := by
  have hw : lenWord p.length 0x2#4 = (writeCommand p).word := lenWord_ofNat p.length 0x2#4
  rw [← hw]
  exact Encoding.decodeInvertsEncode (.hostWrite p.length) (decide_eq_true hp)

/-- The Receiver in R_READ (R260). -/
def receiverReading (s : State) : State :=
  { s with port := readCommand, parser := { s.parser with ps := .idle, rawlen := 0 }, phase := .rRead }

theorem offer_read {s : State} (hp : s.phase = .opened) (hr : s.role = .receiver) :
    s.offer (.cmd readCommand) = .next (receiverReading s) :=
  (offer_cmd decodeCmd_readCommand).trans (exec_hostRead (s := { s with port := readCommand }) hp hr rfl)

/-- The Transmitter in T_WAIT_ACK, having sent `f` for the payload `p` (R241). -/
def transmitterSent (p f : List Byte) (s : State) : State := writeSent f p.length { s with port := writeCommand p }

@[simp] theorem transmitterSent_ns (p f : List Byte) (s : State) : (transmitterSent p f s).ns = s.ns := by
  simp [transmitterSent, writeSent]

@[simp] theorem transmitterSent_wlen (p f : List Byte) (s : State) :
    (transmitterSent p f s).wlen = BitVec.ofNat 16 p.length := by simp [transmitterSent, writeSent]

@[simp] theorem transmitterSent_rxQueue (p f : List Byte) (s : State) :
    (transmitterSent p f s).rxQueue = s.rxQueue := by simp [transmitterSent, writeSent]

@[simp] theorem transmitterSent_outputs (p f : List Byte) (s : State) :
    (transmitterSent p f s).outputs = s.outputs ++ [Output.frame f] := by simp [transmitterSent, writeSent]

theorem offer_write {s : State} {p f : List Byte} (hp : s.phase = .opened) (hr : s.role = .transmitter)
    (hpar : s.par.ok) (hl : p.length ≤ s.par.maxPayload) (hf : buildI s.par s.ns p = .ok f) :
    s.offer (.cmd (writeCommand p)) = .next (transmitterSent p f s) := by
  obtain ⟨-, hmax, -⟩ := hpar
  exact (offer_cmd (decodeCmd_writeCommand (by omega))).trans
    (exec_hostWrite (s := { s with port := writeCommand p }) hp hr rfl hl hf)

/-! ### A core reads bytes from the line -/

@[simp] theorem receive_ns (got : List Byte) (s : State) : (s.receive got).ns = s.ns := rfl
@[simp] theorem receive_wlen (got : List Byte) (s : State) : (s.receive got).wlen = s.wlen := rfl
@[simp] theorem receive_outputs (got : List Byte) (s : State) : (s.receive got).outputs = s.outputs := rfl

/-- With nothing queued before them, the bytes that arrive are the queue. -/
theorem receive_rxQueue {s : State} (h : s.rxQueue = []) (got : List Byte) : (s.receive got).rxQueue = got ++ [] := by
  simp [State.receive, h]

@[simp] theorem atDone_ns (a c : Byte) (q : List Byte) (s : State) : (atDone a c q s).ns = s.ns := rfl
@[simp] theorem atDone_wlen (a c : Byte) (q : List Byte) (s : State) : (atDone a c q s).wlen = s.wlen := rfl
@[simp] theorem atDone_outputs (a c : Byte) (q : List Byte) (s : State) : (atDone a c q s).outputs = s.outputs := rfl

/-! ### The Receiver reads the frame (R266, R270) -/

/-- A core takes bytes that end no frame, one by one; only the parser and the queue change. -/
theorem takes_feeds {s : State} {bs q : List Byte} {p : Parser} (h : Feeds s.par s.phase s.parser bs p)
    (hb : s.phase.busy = true) (hc : Captured s.parser) (hq : s.rxQueue = bs ++ q) :
    Takes (List.replicate bs.length .rxByte) s { s with rxQueue := q, parser := p } := by
  generalize hpar : s.par = par at h
  generalize hph : s.phase = ph at h
  generalize hr : s.parser = r at h
  induction h generalizing s with
  | nil p =>
    subst hpar hph hr
    obtain rfl : s.rxQueue = q := hq
    exact .nil s
  | cons hd hn _ ih =>
    subst hpar hph hr
    exact .cons (offer_byte hb hq hd hc rfl hn) (ih hb (captured_parses hc (parseByte_parses hd)) rfl rfl rfl rfl)

/-- Reading a whole information frame from Idle is running its instruction (R193, R197, R199). -/
theorem takes_infoFrame {s t : State} {a c : Byte} {d q : List Byte} {i : Instr} (hb : s.phase.busy = true)
    (hp : s.parser.ps = .idle) (ha : a ∈ addrSet) (hctl : c ∈ ctrlSet s.phase) (hinfo : c ∉ sCtrl) (hd : delim ∉ d)
    (hl : d.length ≤ s.par.rawCap) (hq : s.rxQueue = [delim, a, c, hcs a c] ++ d ++ [delim] ++ q)
    (hi : decodeCtrl c = .ok i) (ht : exec i (atFrameEnd a c d q s.events s) = .next t) :
    Takes (List.replicate ([delim, a, c, hcs a c] ++ d ++ [delim]).length .rxByte) s t := by
  rw [List.append_assoc _ [delim] q, List.singleton_append] at hq
  have body := takes_feeds (feeds_infoFrame (.inl hp) ha hctl hinfo hd hl) hb (captured_of_early (.inl hp)) hq
  have closing := offer_delim
    (s := { s with rxQueue := delim :: q, parser := atRegionEnd a c d s.parser }) hb rfl rfl hi
  rw [List.length_append, List.replicate_add]
  exact body.append (.cons (closing.trans ht) (.nil t))

/-- A Receiver in R_READ takes the expected information frame: it delivers the payload and answers RR (R270). -/
theorem takes_fresh {s : State} {p f q : List Byte} (hpar : s.par.ok) (hp : p.length ≤ s.par.maxPayload)
    (hs : s.phase = .rRead) (hps : s.parser.ps = .idle) (hwf : s.parser.rawbuf.wf) (hf : buildI s.par s.nr p = .ok f)
    (hq : s.rxQueue = f ++ q) :
    ∃ t, Takes (List.replicate f.length .rxByte) s t ∧ t.phase = .opened ∧ t.nr = s.nr.flip ∧
      t.outputs = s.outputs ++
        [Output.frame (Claims.rrBytes s.nr.flip), Output.response (Claims.answer 0 p.length) p] := by
  obtain ⟨d, hbuild, -, hfit, hdelim, hback⟩ := infoFramesHaveTheirForm s.par s.nr p hpar hp
  rw [← ctrlI_eq_infoCode] at hbuild
  obtain rfl : infoFrame s.nr d = f := Except.ok.inj (hbuild.symm.trans hf)
  obtain ⟨-, hmax, hcap, -, -⟩ := hpar
  obtain ⟨hctl, hinfo⟩ := ctrlI_mem s.nr
  have hraw := atFrameEnd_raw addrT (ctrlI s.nr) d q s.events hwf
  have hend := takeInfo_fresh (s := atFrameEnd addrT (ctrlI s.nr) d q s.events s) hs rfl rfl (hraw.symm ▸ hback)
  have takes := takes_infoFrame (hs ▸ rfl) hps (by decide) (hs ▸ hctl) hinfo hdelim (by omega) hq
    (decodeCtrl_ctrlI s.nr) ((exec_infoInstr ..).trans hend)
  exact ⟨_, takes, rfl, rfl, deliver_outputs (by omega) _⟩

/-! ### The Transmitter reads the RR (R244) -/

/-- The instruction of RR(n). -/
def rrInstr (n : Bit) : Instr := if n = 0#1 then .ctlRr0 else .ctlRr1

theorem exec_rrInstr (n : Bit) (s : State) : exec (rrInstr n) s = takeRr n s := by
  rcases bit_cases n with rfl | rfl <;> rfl

theorem decodeCtrl_ctrlRR (n : Bit) : decodeCtrl (ctrlRR n) = .ok (rrInstr n) := by
  rcases bit_cases n with rfl | rfl <;> rfl

theorem ctrlRR_mem (n : Bit) : ctrlRR n ∈ ctrlSet .tWaitAck := by revert n; decide

/-- A Transmitter in T_WAIT_ACK takes RR with the other value of ns: WRITE ends with the payload length (R242, R244). -/
theorem takes_accept {s : State} {n : Bit} {q : List Byte} (hs : s.phase = .tWaitAck) (hps : s.parser.ps = .idle)
    (hn : n = s.ns.flip) (hq : s.rxQueue = rrFrame n ++ q) :
    Takes (List.replicate (rrFrame n).length .rxByte) s (writeAccepted (idleParser (atDone addrT (ctrlRR n) q s))) := by
  refine takes_frame (by rw [hs]; rfl) hps (by decide) (hs ▸ ctrlRR_mem n) hq (decodeCtrl_ctrlRR n) ?_
  have hd : (atDone addrT (ctrlRR n) q s).phase = .tWaitAck := hs
  have hf : n = (atDone addrT (ctrlRR n) q s).ns.flip := hn
  rw [exec_rrInstr, takeRr, hd, ← hf, atDone_takes]
  simp

/-- The response that ends a WRITE: the length it was given (R105, R244). -/
theorem writeAccepted_outputs (s : State) : (writeAccepted s).outputs =
    s.outputs ++ [Output.response (Claims.answer 0 s.wlen.toNat) []] := by
  rw [writeAccepted, endCommand_outputs, respLen_small s.wlen.isLt, respWord_ofNat]
  rfl

theorem writeAccepted_ns (s : State) : (writeAccepted s).ns = s.ns.flip := rfl

/-- The Transmitter in OPEN, once it has read the RR (R244). -/
def transmitterAcknowledged (p f : List Byte) (s : State) : State :=
  writeAccepted (idleParser
    (atDone addrT (ctrlRR s.ns.flip) [] ((transmitterSent p f s).receive (rrFrame s.ns.flip))))

theorem transmitter_takes_rr {s : State} (p f : List Byte) (h : s.rxQueue = []) :
    Takes (List.replicate (rrFrame s.ns.flip).length .rxByte) ((transmitterSent p f s).receive (rrFrame s.ns.flip))
      (transmitterAcknowledged p f s) := by
  have hq := receive_rxQueue (s := transmitterSent p f s) (by rw [transmitterSent_rxQueue, h]) (rrFrame s.ns.flip)
  exact takes_accept rfl rfl (by rw [receive_ns, transmitterSent_ns]) hq

theorem transmitterAcknowledged_outputs {p : List Byte} (hp : p.length < 65536) (f : List Byte) (s : State) :
    (transmitterAcknowledged p f s).outputs =
      s.outputs ++ [Output.frame f, Output.response (Claims.answer 0 p.length) []] := by
  have hlen : (BitVec.ofNat 16 p.length).toNat = p.length := Nat.mod_eq_of_lt hp
  rw [transmitterAcknowledged, writeAccepted_outputs]
  simp only [idleParser_outputs, idleParser_wlen, atDone_outputs, atDone_wlen, receive_outputs, receive_wlen,
    transmitterSent_outputs, transmitterSent_wlen, hlen, List.append_assoc, List.singleton_append]

theorem transmitterAcknowledged_ns (p f : List Byte) (s : State) :
    (transmitterAcknowledged p f s).ns = s.ns.flip := by
  rw [transmitterAcknowledged, writeAccepted_ns, idleParser_ns, atDone_ns, receive_ns, transmitterSent_ns]

/-! ### The two cores (R326, R327) -/

/-- The Receiver's end of the transfer: it takes the frame of a payload from the line (R266, R270). -/
theorem receiver_takes_frame {s : State} {p f : List Byte} (hpar : s.par.ok) (hp : p.length ≤ s.par.maxPayload)
    (hwf : s.parser.rawbuf.wf) (hf : buildI s.par s.nr p = .ok f) (h : s.rxQueue = []) :
    ∃ t, Takes (List.replicate f.length .rxByte) ((receiverReading s).receive f) t ∧ t.phase = .opened ∧
      t.nr = s.nr.flip ∧
      t.outputs = s.outputs ++ [Output.frame (rrFrame s.nr.flip), Output.response (Claims.answer 0 p.length) p] := by
  rw [rrFrame_bytes]
  exact takes_fresh hpar hp rfl rfl hwf hf (receive_rxQueue (s := receiverReading s) h f)

theorem bytesSent_transmitterSent (p f : List Byte) (s : State) :
    bytesSent (transmitterSent p f s).outputs = bytesSent s.outputs ++ f := by
  simp

/-- A core whose outputs are one frame and one response more has sent that frame's bytes more. -/
theorem bytesSent_of_outputs {s t : State} {f d : List Byte} {w : Word}
    (h : t.outputs = s.outputs ++ [Output.frame f, Output.response w d]) :
    bytesSent t.outputs = bytesSent s.outputs ++ f := by
  rw [h]
  simp

/-- The system when the transfer is over: `f` has crossed from `a`, RR from `b`, and `b` is in the state `t`. -/
def transferred (p f : List Byte) (t : State) (y : System) : System :=
  { a := transmitterAcknowledged p f y.a
    b := t
    aFates := y.aFates ++ f.map some
    bFates := y.bFates ++ (rrFrame y.a.ns.flip).map some }

/-- The moves of a transfer: READ, WRITE, the frame's way and the RR's way back. -/
theorem conducts_transfer {y : System} {p f : List Byte} {t : State} (hs : y.settled Claims.perfectBoth)
    (read : y.b.offer (.cmd readCommand) = .next (receiverReading y.b))
    (write : y.a.offer (.cmd (writeCommand p)) = .next (transmitterSent p f y.a))
    (takesFrame : Takes (List.replicate f.length .rxByte) ((receiverReading y.b).receive f) t)
    (sentRr : bytesSent t.outputs = bytesSent y.b.outputs ++ rrFrame y.a.ns.flip) (hqa : y.a.rxQueue = []) :
    Conducts Claims.perfectBoth
      ([Move.offer .b (.cmd readCommand)] ++ [Move.offer .a (.cmd (writeCommand p))] ++ relay .a .b f ++
        relay .b .a (rrFrame y.a.ns.flip)) y (transferred p f t y) := by
  rw [settled_perfect_iff] at hs
  have frameCrosses := conducts_relay (y := { y with a := transmitterSent p f y.a, b := receiverReading y.b }) .a
    (hs .a) (bytesSent_transmitterSent p f y.a) takesFrame
  have rrCrosses := conducts_relay (y := { transferred p f t y with a := transmitterSent p f y.a, bFates := y.bFates })
    .b (hs .b) sentRr (transmitter_takes_rr p f hqa)
  have reads := conducts_offer (ch := Claims.perfectBoth) .b read
  have writes := conducts_offer (ch := Claims.perfectBoth) (y := { y with b := receiverReading y.b }) .a write
  exact ((reads.append writes).append frameCrosses).append rrCrosses

/-- The system is settled again: each side's fates are the bytes it had sent and its frame of the transfer. -/
theorem transferred_settled {y : System} {p f : List Byte} {t : State} (hs : y.settled Claims.perfectBoth)
    (sentFrame : bytesSent (transmitterAcknowledged p f y.a).outputs = bytesSent y.a.outputs ++ f)
    (sentRr : bytesSent t.outputs = bytesSent y.b.outputs ++ rrFrame y.a.ns.flip) :
    (transferred p f t y).settled Claims.perfectBoth := by
  rw [settled_perfect_iff] at hs ⊢
  intro src
  cases src with
  | a =>
    change y.aFates ++ _ = (bytesSent (transmitterAcknowledged p f y.a).outputs).map some
    rw [sentFrame, List.map_append, show y.aFates = _ from hs .a]
    rfl
  | b =>
    change y.bFates ++ _ = (bytesSent t.outputs).map some
    rw [sentRr, List.map_append, show y.bFates = _ from hs .b]
    rfl

/-- Settles O59: READ and WRITE are accepted, the frame crosses and is delivered, and its RR crosses back and
ends WRITE. -/
theorem payloadCrossesAPerfectChannel : Obligations.PayloadCrossesAPerfectChannel := by
  intro y p f hpar hok hl ha hb hta hrb hseq hqa hqb hwf hs hf
  have hshort : p.length < 65536 := by
    obtain ⟨-, hmax, -⟩ := hok
    omega
  obtain ⟨t, takesFrame, hphase, hnr, outB⟩ :=
    receiver_takes_frame (hpar ▸ hok) (hpar ▸ hl) hwf (hpar ▸ hseq ▸ hf) hqb
  rw [← hseq] at outB
  have outA := transmitterAcknowledged_outputs hshort f y.a
  have sentRr := bytesSent_of_outputs outB
  have run := conducts_transfer hs (offer_read hb hrb) (offer_write ha hta hok hl hf) takesFrame sentRr hqa
  rw [rrFrame_bytes] at run outB
  exact ⟨run.conforms, transferred p f t y, run.run, transferred_settled hs (bytesSent_of_outputs outA) sentRr, rfl,
    hphase, transmitterAcknowledged_ns p f y.a, hnr, outA, outB⟩

end Sys2Proof.Transfer

namespace Sys2Proof.Checksum

open Sys2Proof.Machine Sys2Proof.Laws

variable {s : State} {a c bcc : Byte}

/-! ### The checksum unit's commands (R153, R154, R155) -/

/-- An OK response of one byte announces LEN 1, so only the output record changes (R301, R105). -/
theorem respond_byte (b : Byte) (s : State) : respond .ok 1 [b] s = { s with
    outputs := s.outputs ++ [.response (Claims.answer 0 1) [b]] } := by
  rw [respond, respLen_small (by decide), respWord_ofNat]
  rfl

theorem isValidHeader_iff : isValidHeader a c bcc = true ↔ bcc = a ^^^ c := decide_eq_true_iff

/-- An accepted HCS answers the header checksum of its operands (R153). -/
theorem exec_unitHcs (h : s.acceptsUnit 0 = true) :
    exec (.unitHcs a c) s = .next (respond .ok 1 [hcs a c] s) := if_pos h

/-- An accepted PCS answers the payload checksum of the data (R154). -/
theorem exec_unitPcs {len : Nat} (h : s.acceptsUnit len = true) :
    exec (.unitPcs len) s = .next (respond .ok 1 [pcs s.port.data] s) := if_pos h

/-- An accepted HDRCHK answers the header check of its operands, as a byte (R155). -/
theorem exec_unitHdrchk (h : s.acceptsUnit 0 = true) : exec (.unitHdrchk a c bcc) s =
    .next (respond .ok 1 [if isValidHeader a c bcc then 0x01#8 else 0x00#8] s) := if_pos h

/-- Settles O46: in an idle phase each command is accepted with the data it announces, and its one byte is the response. -/
theorem checksumCommandsAnswer : Obligations.ChecksumCommandsAnswer := by
  intro s a c bcc hidle
  have accepts {n : Nat} (hlen : s.port.data.length = n) : s.acceptsUnit n = true :=
    (acceptsUnit_iff s n).mpr ⟨hidle, hlen⟩
  refine ⟨fun hdata => ?_, ?_, fun hdata => ?_⟩
  · rw [exec_unitHcs (accepts (List.length_eq_zero_iff.mpr hdata)), respond_byte, hcs]
  · rw [exec_unitPcs (accepts rfl), respond_byte, pcs]
  · rw [exec_unitHdrchk (accepts (List.length_eq_zero_iff.mpr hdata)), respond_byte]
    simp only [isValidHeader_iff]

end Sys2Proof.Checksum

namespace Sys2Proof.Parsing

open Sys2Proof.Machine Sys2Proof.Laws Sys2Proof.Scope Sys2Proof.Delivery

variable {par : Params} {ph : Phase} {p q : Parser} {b : Byte}

/-! ### The slots' transition functions (R180) -/

theorem parseByte_idle (h : p.ps = .idle) : parseByte par ph p b = parseIdle p b := by simp only [parseByte, h]

theorem parseByte_sawAddress (h : p.ps = .sawAddress) : parseByte par ph p b = parseAddress p b := by
  simp only [parseByte, h]

theorem parseByte_sawControl (h : p.ps = .sawControl) : parseByte par ph p b = parseControl ph p b := by
  simp only [parseByte, h]

theorem parseByte_sawChecksum (h : p.ps = .sawChecksum) : parseByte par ph p b = parseChecksum p b := by
  simp only [parseByte, h]

theorem parseByte_inPayload (h : p.ps = .inPayload) : parseByte par ph p b = parsePayload par p b := by
  simp only [parseByte, h]

/-! ### ParseStep and its runs over bytes (R180, R193, R197) -/

/-- A transition that does not enter Done outputs None. -/
theorem parseStep_silent (h : (parseByte par ph p b).parser.ps ≠ .done) :
    parseStep par ph p b = ((parseByte par ph p b).parser, .none) := if_neg h

/-- A byte other than the closing delimiter of InPayload outputs None. -/
theorem parseStep_moves (hd : p.ps ≠ .done) (hb : p.ps = .inPayload → b ≠ delim) :
    parseStep par ph p b = ((parseByte par ph p b).parser, .none) :=
  parseStep_silent fun hn =>
    have ⟨hin, hdelim, _⟩ := parseByte_done hd hn
    hb hin hdelim

theorem parseByte_closing (h : p.ps = .inPayload) : parseByte par ph p delim = .to { p with ps := .done } := by
  rw [parseByte_inPayload h, parsePayload, if_pos rfl]

/-- The closing delimiter outputs the frame in the registers and leaves Done at once (R193, R197). -/
theorem parseStep_closing (h : p.ps = .inPayload) :
    parseStep par ph p delim = ({ p with ps := .idle }, frameOut p.pc p) := by
  rw [parseStep, parseByte_closing h]
  rfl

/-- Bytes that end no frame output None, one each, and the parser goes on from where they lead. -/
theorem parseAll_feeds {bs : List Byte} (h : Feeds par ph p bs q) (cs : List Byte) :
    parseAll par ph p (bs ++ cs) =
      ((parseAll par ph q cs).1, List.replicate bs.length .none ++ (parseAll par ph q cs).2) := by
  induction h with
  | nil => rfl
  | cons _ hn _ ih =>
    rw [List.cons_append, parseAll, parseStep_silent hn, ih]
    rfl

/-! ### Resynchronisation (R202) -/

/-- Every legal frame up to its closing delimiter fills the slots, an S-frame's empty region included. -/
theorem feeds_frame {a c : Byte} {d : List Byte} (h : BeforePayload p) (ha : a ∈ addrSet) (hc : c ∈ ctrlSet ph)
    (hs : c ∈ sCtrl → d = []) (hd : delim ∉ d) (hl : d.length ≤ par.rawCap) :
    Feeds par ph p ([delim, a, c, hcs a c] ++ d) (atRegionEnd a c d p) := by
  by_cases hsup : c ∈ sCtrl
  · obtain rfl := hs hsup
    exact feeds_header h ha hc
  · exact feeds_infoFrame h ha hc hsup hd hl

/-- At the closing delimiter the registers hold the frame's address, control byte and region, and its checksum is right. -/
theorem frameOut_atRegionEnd (a c : Byte) (d : List Byte) (h : p.rawbuf.wf) :
    frameOut (atRegionEnd a c d p).pc (atRegionEnd a c d p) = .candidate a c d := by
  have hraw : (atRegionEnd a c d p).raw = d := memory_slice_writeAll h d
  exact (if_pos rfl).trans (congrArg (ParserOut.candidate a c) hraw)

/-- From a slot before InPayload a legal frame gives its Candidate at its closing delimiter and None before it. -/
theorem parseAll_frame {a c : Byte} {d : List Byte} (h : BeforePayload p) (ha : a ∈ addrSet) (hc : c ∈ ctrlSet ph)
    (hs : c ∈ sCtrl → d = []) (hd : delim ∉ d) (hl : d.length ≤ par.rawCap) (hwf : p.rawbuf.wf) :
    parseAll par ph p ([delim, a, c, hcs a c] ++ d ++ [delim]) =
      ({ atRegionEnd a c d p with ps := .idle }, List.replicate (d.length + 4) .none ++ [.candidate a c d]) := by
  rw [parseAll_feeds (feeds_frame h ha hc hs hd hl), parseAll, parseStep_closing rfl, frameOut_atRegionEnd a c d hwf]
  simp [parseAll]

/-- In Idle every byte but the delimiter is dropped (R184). -/
theorem feeds_dropped {bs : List Byte} (h : p.ps = .idle) (hd : delim ∉ bs) : Feeds par ph p bs p := by
  induction bs with
  | nil => exact .nil p
  | cons b bs ih =>
    obtain ⟨hb, hd⟩ := List.ne_and_not_mem_of_not_mem_cons hd
    exact .byte (by simp [h]) (by rw [parseByte_idle h, parseIdle, if_neg hb.symm, Parsed.to]) (by simp [h]) (ih hd)

/-- Bytes read in InPayload after a delimiter are lost up to the next one, which leaves the parser in SawAddress. -/
theorem parseAll_lostFrame {bs : List Byte} (h : p.ps = .inPayload) (hd : delim ∉ bs) :
    parseAll par ph p (delim :: (bs ++ [delim])) =
      ({ p with ps := .sawAddress }, frameOut p.pc p :: List.replicate (bs.length + 1) .none) := by
  have lost : Feeds par ph { p with ps := .idle } (bs ++ [delim]) { p with ps := .sawAddress } :=
    (feeds_dropped rfl hd).append (.byte nofun (parseByte_start rfl) nofun (.nil _))
  have rest := parseAll_feeds lost []
  rw [List.append_nil] at rest
  rw [parseAll, parseStep_closing h, rest]
  simp [parseAll]

/-- Settles O20: before InPayload the frame's bytes fill the slots up to the closing delimiter, whose step outputs the frame; in
InPayload the opening delimiter ends the broken frame and the next bytes are dropped in Idle. -/
theorem parserFindsEveryWellFormedFrame : Obligations.ParserFindsEveryWellFormedFrame := by
  intro par ph p a c d ha hc hs hd hl hwf f
  have haddr : a ∈ addrSet := ha
  refine ⟨fun hpos => ?_, fun hpos => ?_⟩
  · have found := parseAll_frame hpos haddr hc hs hd hl hwf
    exact ⟨congrArg (·.1.ps) found, congrArg (·.2) found⟩
  · obtain ⟨hda, hdc, hdx⟩ := header_ne_delim a haddr c (ctrlSet_sub hc)
    have hbody : delim ∉ [a, c, hcs a c] ++ d := by simp [hda.symm, hdc.symm, hdx.symm, show delim ∉ d from hd]
    have lost := parseAll_lostFrame (par := par) (ph := ph) hpos hbody
    exact ⟨congrArg (·.1.ps) lost, (congrArg (·.2) lost).trans (by simp)⟩

/-! ### The transitions, slot by slot (R181 to R196) -/

theorem mem_addrSet : b ∈ addrSet ↔ b = 0x01#8 ∨ b = 0x03#8 := by simp [addrSet, addrR, addrT]

/-- The two control classes: R_READ accepts the I class with DISC, every other phase the S class (R181, log 24). -/
theorem ctrlSet_eq (ph : Phase) : ctrlSet ph = if ph = .rRead then [0x00#8, 0x40#8, 0x0B#8]
    else [0x03#8, 0x07#8, 0x0B#8, 0x05#8, 0x85#8, 0x01#8, 0x81#8] := by cases ph <;> rfl

/-- Settles O18: each slot's transition is the slot's own function, and only InPayload can enter Done. -/
theorem parserHeaderTransitions : Obligations.ParserHeaderTransitions := by
  intro par ph p b
  refine ⟨fun h => parseByte_idle h, fun h => ?_, fun h => ?_, fun h => parseByte_sawChecksum h, fun h => ?_⟩
  · simp only [parseByte_sawAddress h, parseAddress, mem_addrSet]
    rfl
  · simp only [parseByte_sawControl h, parseControl, ctrlSet_eq]
    rfl
  · exact parseStep_moves (by rcases h with h | h | h | h <;> simp [h]) (by rcases h with h | h | h | h <;> simp [h])

/-- The two information controls are no supervision controls (R95). -/
theorem infoCtrl_notMem_sCtrl {c : Byte} (h : c = 0x00#8 ∨ c = 0x40#8) : c ∉ sCtrl := by
  rcases h with rfl | rfl <;> decide

/-- Settles O19: in InPayload a byte other than the delimiter is judged by the captured control byte and rawlen, and the
delimiter enters Done and leaves it in the same step. -/
theorem parserPayloadTransitions : Obligations.ParserPayloadTransitions := by
  intro par ph p b h hl
  have slot := parseByte_inPayload (par := par) (ph := ph) (b := b) h
  refine ⟨fun hb hs => slot.trans ((if_neg hb).trans (if_pos hs)), fun hb hi hfull => ?_, fun hb hi hroom => ?_,
    fun hb => ?_, ?_⟩
  · have full : ¬ p.rawlen < par.rawCap := by omega
    exact slot.trans ((if_neg hb).trans ((if_neg (infoCtrl_notMem_sCtrl hi)).trans (if_neg full)))
  · exact slot.trans ((if_neg hb).trans ((if_neg (infoCtrl_notMem_sCtrl hi)).trans (if_pos hroom)))
  · exact parseStep_moves (by simp [h]) fun _ => hb
  · rintro rfl
    exact ⟨parseByte_closing h, parseStep_closing h⟩

/-! ### The Done step's instruction (R193, R197, R199) -/

/-- Settles O5: `step_delim`, with the delimiter written as its byte. -/
theorem stepRunsCapturedControl : Obligations.StepRunsCapturedControl :=
  fun _ _ _ _ he hb hq hp hi => step_delim he hb hq hp hi

/-! ### Frames no consumer takes (R199, R216, R219, R222, R226, R228, R248, R263, R265) -/

variable {s : State}

/-- A consumer's test on the frame, as the statements write it. -/
theorem takes_iff_holdsFrame {a c : Byte} : s.takes a c = true ↔ Claims.HoldsFrame s a c [] := by
  rw [takes_iff]
  constructor
  · rintro ⟨hx, rfl, hraw⟩
    exact ⟨rfl, hx, hraw⟩
  · rintro ⟨rfl, hx, hraw⟩
    exact ⟨hx, rfl, hraw⟩

/-- The test of a consumer that waits in phase `ph`. -/
theorem awaits_iff {ph : Phase} {a c : Byte} :
    (decide (s.phase = ph) && s.takes a c) = true ↔ s.phase = ph ∧ Claims.HoldsFrame s a c [] := by
  rw [Bool.and_eq_true, decide_eq_true_eq, takes_iff_holdsFrame]

theorem eq_flip_iff {m n : Bit} : n = m.flip ↔ m = n.flip := by revert m n; decide

/-- RR(n) is the accept only in T_WAIT_ACK, with the other value of ns, at address 0x03 (R242). -/
theorem takeRr_ignored {n : Bit}
    (h : ¬ (s.phase = .tWaitAck ∧ s.ns = n.flip ∧ Claims.HoldsFrame s addrT (ctrlRR n) [])) :
    takeRr n s = ignoreFrame s := by
  refine if_neg fun ht => h ?_
  rwa [Bool.and_eq_true, Bool.and_eq_true, decide_eq_true_eq, decide_eq_true_eq, takes_iff_holdsFrame, eq_flip_iff,
    and_assoc] at ht

/-- REJ(n) is the reject only in T_WAIT_ACK, with the current ns, at address 0x03 (R242). -/
theorem takeRej_ignored {n : Bit} (h : ¬ (s.phase = .tWaitAck ∧ s.ns = n ∧ Claims.HoldsFrame s addrT (ctrlREJ n) [])) :
    takeRej n s = ignoreFrame s := by
  refine if_neg fun ht => h ?_
  rwa [Bool.and_eq_true, Bool.and_eq_true, decide_eq_true_eq, decide_eq_true_eq, takes_iff_holdsFrame, eq_comm (a := n),
    and_assoc] at ht

/-- An information frame is ignored outside R_READ, and there when its header is right and its address is not 0x03 (R265). -/
theorem takeInfo_ignored {n : Bit}
    (h : ¬ (s.phase = .rRead ∧ ¬ (s.parser.pbcc = hcs s.parser.pa (ctrlI n) ∧ s.parser.pa ≠ addrT))) :
    takeInfo n s = ignoreFrame s := by
  by_cases hp : s.phase = .rRead
  · obtain ⟨hx, ha⟩ := not_not.mp fun hn => h ⟨hp, hn⟩
    simp [takeInfo, hp, frameOut, hx, ha]
  · exact if_neg hp

/-- Settles O30: each instruction's consumer tests exactly what `Awaited` says, and ignores the frame otherwise. -/
theorem unexpectedFramesAreIgnored : Obligations.UnexpectedFramesAreIgnored := by
  intro i c s hi h
  change exec i s = ignoreFrame s
  cases i with
  | ctlI0 => exact takeInfo_ignored h
  | ctlI1 => exact takeInfo_ignored h
  | ctlSet => exact if_neg (mt awaits_iff.mp h)
  | ctlUa =>
    obtain ⟨hsetup, hteardown⟩ := not_or.mp h
    exact (if_neg (mt awaits_iff.mp hsetup)).trans (if_neg (mt awaits_iff.mp hteardown))
  | ctlDisc =>
    obtain ⟨hteardown, hrest⟩ := not_or.mp h
    obtain ⟨hdisc, hread⟩ := not_or.mp (mt or_and_right.mpr hrest)
    exact (if_neg (mt awaits_iff.mp hteardown)).trans
      ((if_neg (mt awaits_iff.mp hdisc)).trans (if_neg (mt awaits_iff.mp hread)))
  | ctlRr0 => exact takeRr_ignored h
  | ctlRr1 => exact takeRr_ignored h
  | ctlRej0 => exact takeRej_ignored h
  | ctlRej1 => exact takeRej_ignored h
  | _ => cases hi

end Sys2Proof.Parsing

namespace Sys2Proof.Connection

open Sys2Proof.Machine Sys2Proof.Laws Sys2Proof.Scope Sys2Proof.Parsing

variable {s : State}

/-! ### The teardown's frames as bytes, and the end of a command (R105, R107, R301) -/

theorem discFrameR_bytes : discFrameR = [0x7E#8, 0x01#8, 0x0B#8, 0x0A#8, 0x7E#8] := by decide

theorem uaFrameR_bytes : uaFrameR = [0x7E#8, 0x01#8, 0x07#8, 0x06#8, 0x7E#8] := by decide

/-- A command that ends without data announces none: the phase it returns to, and its response (R105, R301). -/
theorem endCommand_empty (ph : Phase) (c : ResultCode) (s : State) : endCommand ph c 0 [] s = { s with
    phase := ph, outputs := s.outputs ++ [.response (Claims.answer (codeNumber c).toNat 0) []] } :=
  Ports.respond_empty c { s with phase := ph }

/-! ### The rule each instruction follows, phase by phase (R210 to R229, R264) -/

/-- An accepted OPEN latches its operands, opens the transport and goes on with the answer (R210). -/
theorem exec_hostOpen {r : Role} {k : Nat} (hp : s.phase = .closed) (hk : k < 256) (hr : r = .receiver ∨ 1 ≤ k)
    (hd : s.port.data = []) :
    exec (.hostOpen r k) s = .next (openAnswered (transportOpen (openInit r (BitVec.ofNat 8 k) s))) :=
  if_pos ((openAccepted_iff ..).mpr ⟨hp, hr.imp_right (ofNat_byte_ne_zero · hk), List.length_eq_zero_iff.mpr hd⟩)

/-- R212: the transport is open, and the role is Transmitter. -/
theorem exec_hostOpen_transmitter {k : Nat} (hp : s.phase = .closed) (h1 : 1 ≤ k) (hk : k < 256)
    (hd : s.port.data = []) (hok : s.port.transportOk = true) : exec (.hostOpen .transmitter k) s = .next
      (openTransmitter { transportOpen (openInit .transmitter (BitVec.ofNat 8 k) s) with topen := true }) :=
  (exec_hostOpen hp hk (.inr h1) hd).trans (congrArg Host.Outcome.next (if_pos hok))

/-- R217: the transport is open, and the role is Receiver. -/
theorem exec_hostOpen_receiver {k : Nat} (hp : s.phase = .closed) (hk : k < 256) (hd : s.port.data = [])
    (hok : s.port.transportOk = true) : exec (.hostOpen .receiver k) s = .next
      (openReceiver { transportOpen (openInit .receiver (BitVec.ofNat 8 k) s) with topen := true }) :=
  (exec_hostOpen hp hk (.inl rfl) hd).trans (congrArg Host.Outcome.next (if_pos hok))

/-- R211: the transport did not open. -/
theorem exec_hostOpen_failed {r : Role} {k : Nat} (hp : s.phase = .closed) (hk : k < 256) (hr : r = .receiver ∨ 1 ≤ k)
    (hd : s.port.data = []) (hok : s.port.transportOk = false) :
    exec (.hostOpen r k) s = .next (openFailed (transportOpen (openInit r (BitVec.ofNat 8 k) s))) :=
  (exec_hostOpen hp hk hr hd).trans (congrArg Host.Outcome.next (if_neg (by simp [openInit, hok])))

/-- Another phase's consumer does not take the frame. -/
theorem not_awaits {ph : Phase} {a c : Byte} (h : s.phase ≠ ph) : ¬ (decide (s.phase = ph) && s.takes a c) = true :=
  fun ht => h (awaits_iff.mp ht).1

/-- R218. -/
theorem exec_ctlSet_rSetup (hp : s.phase = .rSetup) (h : Claims.HoldsFrame s addrT codeSet []) :
    exec .ctlSet s = .next (setupReceived (idleParser s)) := if_pos (awaits_iff.mpr ⟨hp, h⟩)

/-- R213. -/
theorem exec_ctlUa_tSetup (hp : s.phase = .tSetup) (h : Claims.HoldsFrame s addrT codeUa []) :
    exec .ctlUa s = .next (setupAcknowledged (idleParser s)) := if_pos (awaits_iff.mpr ⟨hp, h⟩)

/-- R227. -/
theorem exec_ctlUa_rTeardownUa (hp : s.phase = .rTeardownUa) (h : Claims.HoldsFrame s addrR codeUa []) :
    exec .ctlUa s = .next (teardownAcknowledged (idleParser s)) :=
  (if_neg (not_awaits (by simp [hp]))).trans (if_pos (awaits_iff.mpr ⟨hp, h⟩))

/-- R221. -/
theorem exec_ctlDisc_tTeardown (hp : s.phase = .tTeardown) (h : Claims.HoldsFrame s addrR codeDisc []) :
    exec .ctlDisc s = .next (teardownAnswered (idleParser s)) := if_pos (awaits_iff.mpr ⟨hp, h⟩)

/-- R225. -/
theorem exec_ctlDisc_rTeardownDisc (hp : s.phase = .rTeardownDisc) (h : Claims.HoldsFrame s addrT codeDisc []) :
    exec .ctlDisc s = .next (teardownReceived (idleParser s)) :=
  (if_neg (not_awaits (by simp [hp]))).trans (if_pos (awaits_iff.mpr ⟨hp, h⟩))

/-- R264. -/
theorem exec_ctlDisc_rRead (hp : s.phase = .rRead) (h : Claims.HoldsFrame s addrT codeDisc []) :
    exec .ctlDisc s = .next (disconnectRequested (idleParser s)) :=
  (if_neg (not_awaits (by simp [hp]))).trans
    ((if_neg (not_awaits (by simp [hp]))).trans (if_pos (awaits_iff.mpr ⟨hp, h⟩)))

/-- R220. -/
theorem exec_hostClose_transmitter (hd : s.port.data = []) (hp : s.phase = .opened) (hr : s.role = .transmitter) :
    exec .hostClose s = .next (closeTransmitter s) := by
  simp [exec, execHostClose, hd, hp, hr]

/-- R223. -/
theorem exec_hostClose_receiver (hd : s.port.data = []) (hp : s.phase = .opened) (hr : s.role = .receiver)
    (hseen : s.discSeen = false) : exec .hostClose s = .next (closeReceiver s) := by
  simp [exec, execHostClose, hd, hp, hr, hseen]

/-- R224. -/
theorem exec_hostClose_receiverSeen (hd : s.port.data = []) (hp : s.phase = .opened) (hr : s.role = .receiver)
    (hseen : s.discSeen = true) : exec .hostClose s = .next (closeReceiverSeen s) := by
  simp [exec, execHostClose, hd, hp, hr, hseen]

/-- R229. -/
theorem exec_hostClose_broken (hd : s.port.data = []) (hp : s.phase = .broken) :
    exec .hostClose s = .next (closeBroken s) := by
  simp [exec, execHostClose, hd, hp]

/-! ### OPEN (R210 to R217) -/

/-- Settles O21: OPEN is accepted, the transport's answer is Ok, and R212 sends SET. -/
theorem openTransmitterSendsSet : Obligations.OpenTransmitterSendsSet := by
  intro s k h1 hk hp hd hok
  rw [exec_hostOpen_transmitter hp h1 hk hd hok]
  simp [openTransmitter, armTimer, txSend, transportOpen, State.emit, openInit, hok, setFrame_bytes]

/-- Settles O22: OPEN is accepted for every K, the transport's answer is Ok, and R217 waits. -/
theorem openReceiverWaitsForSet : Obligations.OpenReceiverWaitsForSet := by
  intro s k hk hp hd hok
  rw [exec_hostOpen_receiver hp hk hd hok]
  simp [openReceiver, transportOpen, State.emit, openInit, hok]

/-- Settles O23: OPEN is accepted in either role, and R211 ends it on the transport's answer. -/
theorem openFailsWithTheTransport : Obligations.OpenFailsWithTheTransport := by
  intro s r k hk hr hp hd hok
  have hrole : r = .receiver ∨ 1 ≤ k := by
    cases r with
    | transmitter => exact .inr (hr rfl)
    | receiver => exact .inl rfl
  rw [exec_hostOpen_failed hp hk hrole hd hok, openFailed, endCommand_empty]
  simp [transportOpen, State.emit, openInit, hok, codeNumber]

/-! ### The frames SET, UA and DISC (R213, R218, R221, R225, R227, R264) -/

/-- Settles O24, by R213. -/
theorem uaCompletesTransmitterSetup : Obligations.UaCompletesTransmitterSetup := by
  intro s hp h
  rw [exec_ctlUa_tSetup hp h, setupAcknowledged, endCommand_empty]
  rfl

/-- Settles O25, by R218. -/
theorem setCompletesReceiverSetup : Obligations.SetCompletesReceiverSetup := by
  intro s hp h
  rw [exec_ctlSet_rSetup hp h, setupReceived, endCommand_empty]
  simp [txSend, State.emit, idleParser, uaFrameT_bytes, codeNumber]

/-- Settles O26, one phase at a time. -/
theorem discIsTakenWhereAwaited : Obligations.DiscIsTakenWhereAwaited := by
  intro s
  refine ⟨fun hp h => ?_, fun hp h => ?_, fun hp h => ?_⟩
  · rw [exec_ctlDisc_tTeardown hp h, CoreState.teardownAnswered_eq, uaFrameR_bytes, respWord_ofNat 0]
    rfl
  · rw [exec_ctlDisc_rTeardownDisc hp h, teardownReceived, discFrameR_bytes]
    rfl
  · rw [exec_ctlDisc_rRead hp h, disconnectRequested, endCommand_empty]
    rfl

/-- Settles O27, by R227. -/
theorem uaCompletesReceiverTeardown : Obligations.UaCompletesReceiverTeardown := by
  intro s hp h
  rw [exec_ctlUa_rTeardownUa hp h, teardownAcknowledged, endCommand_empty]
  simp [transportClose, State.emit, idleParser, codeNumber]

/-- Settles O28, one phase and role at a time. -/
theorem closeBeginsOrEndsTeardown : Obligations.CloseBeginsOrEndsTeardown := by
  intro s hd
  refine ⟨fun hp hr => ?_, fun hp hr hseen => ?_, fun hp hr hseen => ?_, fun hp => ?_⟩
  · rw [exec_hostClose_transmitter hd hp hr, closeTransmitter, CoreState.discFrameT_bytes]
    rfl
  · exact exec_hostClose_receiver hd hp hr hseen
  · rw [exec_hostClose_receiverSeen hd hp hr hseen, closeReceiverSeen, discFrameR_bytes]
    rfl
  · rw [exec_hostClose_broken hd hp, closeBroken, endCommand_empty]
    simp [transportClose, State.emit, codeNumber]

/-! ### The timer (R214, R215, R246, R247, R249) -/

/-- The frame a timeout sends again: SET in T_SETUP, the held one in T_WAIT_ACK (R214, R246). -/
def resentFrame (s : State) : List Byte := if s.phase = .tSetup then setFrame else s.txFrame

/-- A timeout before the k-th: it counts, drops a partial frame, sends again and arms the timer (R214, R246). -/
def resent (s : State) : State := { s with
  retry := s.retry + 1#8, parser := Claims.idled s, timerArmed := true,
  outputs := s.outputs ++ [.frame (resentFrame s)] }

/-- The k-th timeout: R215 in T_SETUP, R247 in T_WAIT_ACK. -/
def gaveUp (s : State) : State :=
  if s.phase = .tSetup then setupExhausted (disarmTimer s) else writeExhausted (disarmTimer s)

theorem setupResend_eq_resent (hp : s.phase = .tSetup) : setupResend (disarmTimer s) = resent s := by
  rw [CoreState.setupResend_eq, resent, resentFrame, if_pos hp]

theorem writeResend_eq_resent (hp : s.phase = .tWaitAck) : writeResend (disarmTimer s) = resent s := by
  rw [CoreState.writeResend_eq, resent, resentFrame, if_neg (by simp [hp])]

/-- The k-th timeout overwrites the count, the parser's position and the timer, so of the timeouts before it only what
they sent is left. -/
theorem gaveUp_resent (s : State) (os : List Output) :
    gaveUp { resent s with outputs := (resent s).outputs ++ os } =
      gaveUp { s with outputs := s.outputs ++ .frame (resentFrame s) :: os } := by
  unfold gaveUp resent
  simp only [CoreState.setupExhausted_eq, CoreState.writeExhausted_eq, List.append_assoc, List.singleton_append]

section Expiry

variable {es : List Event} (he : s.events = .expiry :: es) (ha : s.timerArmed = true)
include he ha

theorem step_expiry_tSetup (hp : s.phase = .tSetup) :
    step s = setupExpiry (disarmTimer { s with events := es }) := by
  simp only [step_cons he, takeEvent, takeExpiry, ha, hp, if_true]

theorem step_expiry_tWaitAck (hp : s.phase = .tWaitAck) :
    step s = ackExpiry (disarmTimer { s with events := es }) := by
  simp only [step_cons he, takeEvent, takeExpiry, ha, hp, if_true]

/-- R214, R246. -/
theorem step_expiry_resent (hp : s.phase = .tSetup ∨ s.phase = .tWaitAck)
    (hlt : s.retry.toNat + 1 < s.cfgMaxRetry.toNat) : step s = .next (resent { s with events := es }) := by
  rcases hp with hp | hp
  · rw [step_expiry_tSetup he ha hp, ← setupResend_eq_resent (s := { s with events := es }) hp]
    exact if_pos hlt
  · rw [step_expiry_tWaitAck he ha hp, ← writeResend_eq_resent (s := { s with events := es }) hp]
    exact if_pos hlt

/-- R215, R247. -/
theorem step_expiry_gaveUp (hp : s.phase = .tSetup ∨ s.phase = .tWaitAck)
    (hk : s.retry.toNat + 1 = s.cfgMaxRetry.toNat) : step s = .next (gaveUp { s with events := es }) := by
  have hlast : ¬ s.retry.toNat + 1 < s.cfgMaxRetry.toNat := hk.not_lt
  rcases hp with hp | hp
  · rw [step_expiry_tSetup he ha hp, gaveUp, if_pos hp]
    exact (if_neg hlast).trans (if_pos hk)
  · rw [step_expiry_tWaitAck he ha hp, gaveUp, if_neg (by simp [hp])]
    exact (if_neg hlast).trans (if_pos hk)

end Expiry

/-- Settles O29, by the two steps an expiry can make. -/
theorem setupExpiryResendsOrFails : Obligations.SetupExpiryResendsOrFails := by
  intro s es he ha hp
  refine ⟨fun hlt => ?_, fun hk => ?_⟩
  · rw [step_expiry_resent he ha (.inl hp) hlt, resent, resentFrame, if_pos hp, byte_succ, setFrame_bytes, ha]
  · rw [step_expiry_gaveUp he ha (.inl hp) hk, gaveUp, if_pos hp, CoreState.setupExhausted_eq, respWord_ofNat 0]
    rfl

/-- With `n` timeouts left before the k-th, the frame is sent `n` times and the next timeout is the k-th. -/
theorem run_expiries {n : Nat} {es : List Event} (ha : s.timerArmed = true)
    (hp : s.phase = .tSetup ∨ s.phase = .tWaitAck) (hn : s.retry.toNat + (n + 1) = s.cfgMaxRetry.toNat)
    (he : s.events = List.replicate (n + 1) .expiry ++ es) :
    Host.Core.run Sys2Proof.core (n + 1) s = .next (gaveUp { s with
      events := es, outputs := s.outputs ++ List.replicate n (.frame (resentFrame s)) }) := by
  induction n generalizing s with
  | zero =>
    rw [List.replicate_zero, List.append_nil]
    exact run_succ (step_expiry_gaveUp (es := es) he ha hp hn) 0
  | succ n ih =>
    have hlt : s.retry.toNat + 1 < s.cfgMaxRetry.toNat := by omega
    have hcount : (s.retry + 1#8).toNat + (n + 1) = s.cfgMaxRetry.toNat := by
      rw [CoreState.toNat_succ_of_lt hlt]
      omega
    have rest := ih (s := resent { s with events := List.replicate (n + 1) .expiry ++ es }) rfl hp hcount rfl
    exact (run_succ (step_expiry_resent he ha hp hlt) (n + 1)).trans
      (rest.trans (congrArg Host.Outcome.next (gaveUp_resent { s with events := es } _)))

/-- Settles O37: k timeouts are left at the start, and the k-th ends the command by the rule of its phase. -/
theorem commandsFailAtTheKthTimeout : Obligations.CommandsFailAtTheKthTimeout := by
  intro s es ha hr hk he
  obtain ⟨n, hn⟩ := Nat.exists_eq_add_of_le' hk
  have hcount : s.retry.toNat + (n + 1) = s.cfgMaxRetry.toNat := by rw [hr, hn, BitVec.toNat_zero, Nat.zero_add]
  rw [hn] at he ⊢
  refine ⟨fun hp => ?_, fun hp => ?_⟩
  · have hne : s.phase ≠ .tSetup := by simp [hp]
    rw [run_expiries ha (.inr hp) hcount he, gaveUp, if_neg hne, CoreState.writeExhausted_eq, resentFrame, if_neg hne,
      CoreState.discFrameT_bytes, respWord_ofNat 0]
    rfl
  · rw [run_expiries ha (.inl hp) hcount he, gaveUp, if_pos hp, CoreState.setupExhausted_eq, resentFrame, if_pos hp,
      setFrame_bytes, respWord_ofNat 0]
    rfl

/-! ### Teardown over a perfect channel (R231, R326, R327) -/

/-- CLOSE, as either core's host issues it. -/
def closeCommand : Command := Claims.plain 0x00000004#32 []

theorem decodeCmd_closeCommand : decodeCmd closeCommand.word = .ok .hostClose := by decide

/-- The Transmitter in T_TEARDOWN (R220). -/
def transmitterClosing (s : State) : State := closeTransmitter { s with port := closeCommand }

/-- The Receiver in R_TEARDOWN_DISC (R223). -/
def receiverClosing (s : State) : State := closeReceiver { s with port := closeCommand }

/-- The Receiver in R_TEARDOWN_UA, once it has read DISC@03 (R225). -/
def receiverAnswered (s : State) : State :=
  teardownReceived (idleParser (atDone addrT codeDisc [] ((receiverClosing s).receive discFrameT)))

/-- The Transmitter in CLOSED, once it has read DISC@01 (R221). -/
def transmitterClosed (s : State) : State :=
  teardownAnswered (idleParser (atDone addrR codeDisc [] ((transmitterClosing s).receive discFrameR)))

/-- The Receiver in CLOSED, once it has read UA@01 (R227). -/
def receiverClosed (s : State) : State :=
  teardownAcknowledged (idleParser (atDone addrR codeUa [] ((receiverAnswered s).receive uaFrameR)))

theorem offer_close_transmitter (hp : s.phase = .opened) (hr : s.role = .transmitter) :
    s.offer (.cmd closeCommand) = .next (transmitterClosing s) :=
  (offer_cmd decodeCmd_closeCommand).trans
    (exec_hostClose_transmitter (s := { s with port := closeCommand }) rfl hp hr)

theorem offer_close_receiver (hp : s.phase = .opened) (hr : s.role = .receiver) (hseen : s.discSeen = false) :
    s.offer (.cmd closeCommand) = .next (receiverClosing s) :=
  (offer_cmd decodeCmd_closeCommand).trans
    (exec_hostClose_receiver (s := { s with port := closeCommand }) rfl hp hr hseen)

theorem receiver_takes_disc (h : s.rxQueue = []) :
    Takes (List.replicate discFrameT.length .rxByte) ((receiverClosing s).receive discFrameT) (receiverAnswered s) :=
  takes_frame rfl rfl (by decide) (by decide : codeDisc ∈ ctrlSet .rTeardownDisc)
    (Transfer.receive_rxQueue (s := receiverClosing s) h discFrameT) rfl (exec_ctlDisc_rTeardownDisc rfl ⟨rfl, rfl, rfl⟩)

theorem transmitter_takes_disc (h : s.rxQueue = []) :
    Takes (List.replicate discFrameR.length .rxByte) ((transmitterClosing s).receive discFrameR) (transmitterClosed s) :=
  takes_frame rfl rfl (by decide) (by decide : codeDisc ∈ ctrlSet .tTeardown)
    (Transfer.receive_rxQueue (s := transmitterClosing s) h discFrameR) rfl (exec_ctlDisc_tTeardown rfl ⟨rfl, rfl, rfl⟩)

theorem receiver_takes_ua (s : State) :
    Takes (List.replicate uaFrameR.length .rxByte) ((receiverAnswered s).receive uaFrameR) (receiverClosed s) :=
  takes_frame rfl rfl (by decide) (by decide : codeUa ∈ ctrlSet .rTeardownUa)
    (Transfer.receive_rxQueue (s := receiverAnswered s) rfl uaFrameR) rfl (exec_ctlUa_rTeardownUa rfl ⟨rfl, rfl, rfl⟩)

/-! The bytes each core has sent: DISC@03 and then UA@01 from the Transmitter, DISC@01 from the Receiver. -/

theorem bytesSent_transmitterClosing (s : State) :
    bytesSent (transmitterClosing s).outputs = bytesSent s.outputs ++ discFrameT := by
  change bytesSent (s.outputs ++ [.frame discFrameT]) = _
  simp

theorem bytesSent_transmitterClosed (s : State) :
    bytesSent (transmitterClosed s).outputs = bytesSent s.outputs ++ discFrameT ++ uaFrameR := by
  rw [transmitterClosed, CoreState.teardownAnswered_eq]
  change bytesSent ((transmitterClosing s).outputs ++ [.frame uaFrameR, _, _]) = _
  rw [bytesSent_append, bytesSent_transmitterClosing]
  simp

theorem bytesSent_receiverAnswered (s : State) :
    bytesSent (receiverAnswered s).outputs = bytesSent s.outputs ++ discFrameR := by
  change bytesSent (s.outputs ++ [.frame discFrameR]) = _
  simp

theorem bytesSent_receiverClosed (s : State) :
    bytesSent (receiverClosed s).outputs = bytesSent s.outputs ++ discFrameR := by
  change bytesSent ((receiverAnswered s).outputs ++ [_] ++ [_]) = _
  rw [bytesSent_append, bytesSent_append, bytesSent_receiverAnswered]
  simp

/-- The system when both cores are CLOSED: DISC and UA have crossed from `a` and DISC from `b`. -/
def disconnected (y : System) : System :=
  { a := transmitterClosed y.a
    b := receiverClosed y.b
    aFates := y.aFates ++ discFrameT.map some ++ uaFrameR.map some
    bFates := y.bFates ++ discFrameR.map some }

/-- The moves of a teardown: the two CLOSE commands, DISC@03's way, DISC@01's way back and UA@01's way. -/
theorem conducts_teardown {y : System} (ha : y.a.phase = .opened) (hb : y.b.phase = .opened)
    (hta : y.a.role = .transmitter) (hrb : y.b.role = .receiver) (hseen : y.b.discSeen = false)
    (hqa : y.a.rxQueue = []) (hqb : y.b.rxQueue = []) (hs : y.settled Claims.perfectBoth) :
    Conducts Claims.perfectBoth
      ([.offer .b (.cmd closeCommand)] ++ [.offer .a (.cmd closeCommand)] ++ relay .a .b discFrameT ++
        relay .b .a discFrameR ++ relay .a .b uaFrameR) y (disconnected y) := by
  rw [settled_perfect_iff] at hs
  have closeB : (coreOf y .b).offer (.cmd closeCommand) = .next (receiverClosing y.b) :=
    offer_close_receiver hb hrb hseen
  have closeA : y.a.offer (.cmd closeCommand) = .next (transmitterClosing y.a) := offer_close_transmitter ha hta
  have discCrosses := conducts_relay (y := { y with a := transmitterClosing y.a, b := receiverClosing y.b }) .a (hs .a)
    (bytesSent_transmitterClosing y.a) (receiver_takes_disc hqb)
  have discReturns := conducts_relay
    (y := { y with
      a := transmitterClosing y.a, b := receiverAnswered y.b, aFates := y.aFates ++ discFrameT.map some }) .b (hs .b)
    (bytesSent_receiverAnswered y.b) (transmitter_takes_disc hqa)
  have discFates : y.aFates ++ discFrameT.map some = (bytesSent y.a.outputs ++ discFrameT).map some := by
    rw [List.map_append]
    exact congrArg (· ++ _) (hs .a)
  have uaCrosses := conducts_relay
    (y := { disconnected y with b := receiverAnswered y.b, aFates := y.aFates ++ discFrameT.map some }) .a discFates
    (bytesSent_transmitterClosed y.a) (receiver_takes_ua y.b)
  exact ((((conducts_offer .b closeB).append (conducts_offer .a closeA)).append discCrosses).append
    discReturns).append uaCrosses

/-- The disconnected system is settled: each side's fates are the bytes it had sent and its frames of the teardown. -/
theorem disconnected_settled {y : System} (hs : y.settled Claims.perfectBoth) :
    (disconnected y).settled Claims.perfectBoth := by
  rw [settled_perfect_iff] at hs ⊢
  intro src
  cases src with
  | a =>
    change y.aFates ++ _ ++ _ = (bytesSent (transmitterClosed y.a).outputs).map some
    rw [bytesSent_transmitterClosed, List.map_append, List.map_append, show y.aFates = _ from hs .a]
    rfl
  | b =>
    change y.bFates ++ _ = (bytesSent (receiverClosed y.b).outputs).map some
    rw [bytesSent_receiverClosed, List.map_append, show y.bFates = _ from hs .b]
    rfl

/-- Settles O60, by running the teardown to the disconnected system and reading its registers. -/
theorem twoCoresDisconnect : Obligations.TwoCoresDisconnect := by
  intro y ha hb hta hrb hseen hqa hqb hs
  have run := conducts_teardown ha hb hta hrb hseen hqa hqb hs
  rw [CoreState.discFrameT_bytes, discFrameR_bytes, uaFrameR_bytes] at run
  exact ⟨run.conforms, disconnected y, run.run, disconnected_settled hs, rfl, rfl, rfl, rfl⟩

end Sys2Proof.Connection

namespace Sys2Proof.ArqTx

open Sys2Proof.Machine Sys2Proof.Laws Sys2Proof.Scope Sys2Proof.Parsing Sys2Proof.Connection

variable {s : State}

/-! ### WRITE beyond MAX_PAYLOAD (R240) -/

/-- An accepted WRITE whose length is above MAX_PAYLOAD is refused before BuildI is asked (R240). -/
theorem exec_hostWrite_long {len : Nat} (hp : s.phase = .opened) (hr : s.role = .transmitter)
    (hd : s.port.data.length = len) (hl : s.par.maxPayload < len) :
    exec (.hostWrite len) s = .next (writeRefused s) := by
  have long : ¬ len ≤ s.par.maxPayload := hl.not_ge
  simp [exec, execHostWrite, hp, hr, hd, long]

/-- Settles O31, by R240. -/
theorem longWriteIsRefused : Obligations.LongWriteIsRefused := by
  intro s len hp hr hd hl
  rw [exec_hostWrite_long hp hr hd hl, writeRefused, Ports.respond_empty]
  rfl

/-! ### The frames RR and REJ in T_WAIT_ACK (R242, R244, R245) -/

/-- The two conditions of R242 on a frame awaited in T_WAIT_ACK: its number, and the frame itself. -/
theorem awaits_ack_iff {m n : Bit} {c : Byte} :
    (decide (s.phase = .tWaitAck) && decide (n = m) && s.takes addrT c) = true ↔
      s.phase = .tWaitAck ∧ n = m ∧ Claims.HoldsFrame s addrT c [] := by
  rw [Bool.and_eq_true, Bool.and_eq_true, decide_eq_true_eq, decide_eq_true_eq, takes_iff_holdsFrame, and_assoc]

/-- The accept disarms the timer, toggles ns and ends WRITE with wlen, a 16-bit register and so always a LEN (R244). -/
theorem writeAccepted_eq (s : State) : writeAccepted s = { s with
    timerArmed := false, ns := s.ns.flip, phase := .opened,
    outputs := s.outputs ++ [.response (Claims.answer 0 s.wlen.toNat) []] } := by
  rw [writeAccepted, endCommand, respond, respLen_small s.wlen.isLt, respFree_small s.wlen.isLt, respWord_ofNat]
  rfl

/-- RR(n) with the other value of ns is the accept (R242); the new ns is the n it carries (R244). -/
theorem takeRr_accepted {n : Bit} (hp : s.phase = .tWaitAck) (hn : n = s.ns.flip)
    (h : Claims.HoldsFrame s addrT (ctrlRR n) []) : takeRr n s = .next { s with
      parser := Claims.idled s, timerArmed := false, ns := n, phase := .opened,
      outputs := s.outputs ++ [.response (Claims.answer 0 s.wlen.toNat) []] } := by
  have taken : takeRr n s = .next (writeAccepted (idleParser s)) := if_pos (awaits_ack_iff.mpr ⟨hp, hn, h⟩)
  rw [taken, writeAccepted_eq, hn]
  rfl

/-- Settles O33: the accept of each ns, by `takeRr_accepted`. -/
theorem acceptCompletesWrite : Obligations.AcceptCompletesWrite := by
  intro s hp
  exact ⟨fun hns h => takeRr_accepted hp (by rw [hns]; rfl) h, fun hns h => takeRr_accepted hp (by rw [hns]; rfl) h⟩

/-- REJ(n) with the current ns is the reject (R242, R245). -/
theorem takeRej_rejected {n : Bit} (hp : s.phase = .tWaitAck) (hn : n = s.ns)
    (h : Claims.HoldsFrame s addrT (ctrlREJ n) []) : takeRej n s = .next (writeRejected (idleParser s)) :=
  if_pos (awaits_ack_iff.mpr ⟨hp, hn, h⟩)

/-- Settles O34: the reject of each ns, by `takeRej_rejected`. -/
theorem rejectRetransmits : Obligations.RejectRetransmits := by
  intro s hp
  exact ⟨fun hns h => takeRej_rejected hp hns.symm h, fun hns h => takeRej_rejected hp hns.symm h⟩

/-! ### The timer in T_WAIT_ACK (R246, R247) -/

/-- Settles O35, by the two steps an expiry can make. -/
theorem ackExpiryResendsOrBreaks : Obligations.AckExpiryResendsOrBreaks := by
  intro s es he ha hp
  have hne : s.phase ≠ .tSetup := by simp [hp]
  refine ⟨fun hlt => ?_, fun hk => ?_⟩
  · rw [step_expiry_resent he ha (.inr hp) hlt, resent, resentFrame, if_neg hne, byte_succ, ha]
    rfl
  · rw [step_expiry_gaveUp he ha (.inr hp) hk, gaveUp, if_neg hne, CoreState.writeExhausted_eq,
      CoreState.discFrameT_bytes, respWord_ofNat 0]
    rfl

end Sys2Proof.ArqTx

namespace Sys2Proof.ArqRx

open Sys2Proof.Machine Sys2Proof.Laws Sys2Proof.Scope Sys2Proof.Delivery Sys2Proof.Transfer

variable {s : State}

/-! ### What each verdict does to the registers (R262 to R271) -/

theorem rejFrame_bytes (n : Bit) : rejFrame n = Claims.rejBytes n := by revert n; decide

/-- R262, R266, R268, R269. -/
theorem sendRej_eq (s : State) : sendRej s = { s with
    outputs := s.outputs ++ [.frame (Claims.rejBytes s.nr)] } := by
  rw [sendRej, rejFrame_bytes]
  rfl

/-- R267. -/
theorem readCorrupt_eq (s : State) : readCorrupt s = { s with
    phase := .opened, outputs := s.outputs ++ [.response (Claims.answer 4 0) []] } :=
  Connection.endCommand_empty .opened .readCorrupt s

/-- R270, for a payload whose length fits LEN. -/
theorem deliver_eq {p : List Byte} (hp : p.length < 65536) (s : State) : deliver p s = { s with
    nr := s.nr.flip, phase := .opened,
    outputs := s.outputs ++ [.frame (Claims.rrBytes s.nr.flip), .response (Claims.answer 0 p.length) p] } := by
  rw [← deliver_outputs hp, deliver, endCommand, respond, respFree_small hp]
  rfl

/-- R271. -/
theorem answerDuplicate_eq (s : State) : answerDuplicate s = { s with
    outputs := s.outputs ++ [.frame (Claims.rrBytes s.nr)] } := by
  rw [answerDuplicate, rrFrame_bytes]
  rfl

/-! ### READ (R260) -/

/-- Settles O38: without data, an accepted READ. -/
theorem readBeginsWaiting : Obligations.ReadBeginsWaiting := by
  intro s hp hr hd
  exact exec_hostRead hp hr (List.length_eq_zero_iff.mpr hd)

/-- The step of an accepted READ (R104, R260). -/
theorem step_read {es : List Event} (he : s.events = .cmd readCommand :: es) (hp : s.phase = .opened)
    (hr : s.role = .receiver) : step s = .next (receiverReading { s with events := es }) :=
  (Encoding.stepRunsDecodedCommand s readCommand es .hostRead he decodeCmd_readCommand).trans
    (exec_hostRead (s := { s with events := es, port := readCommand }) hp hr rfl)

/-! ### An information frame in R_READ (R262 to R271) -/

section InfoFrame

variable {n : Bit} {raw d : List Byte}

/-- A wrong header checksum draws REJ at any address (R262). -/
theorem exec_infoInstr_badHeader (hs : s.phase = .rRead) (h : s.parser.pbcc ≠ s.parser.pa ^^^ Claims.infoCode n) :
    exec (Claims.infoInstr n) s = .next (sendRej (idleParser s)) := by
  rw [← ctrlI_eq_infoCode] at h
  have hout : frameOut (ctrlI n) s.parser = .headerFail s.parser.pa (ctrlI n) := if_neg h
  rw [exec_infoInstr, takeInfo, if_pos hs, hout]
  rfl

/-- A frame at address 0x03 with a right header has its region destuffed and judged (R266). -/
theorem exec_infoInstr_region (hs : s.phase = .rRead) (h : Claims.HoldsFrame s addrT (Claims.infoCode n) raw) :
    exec (Claims.infoInstr n) s = .next (receiveRegion n raw (idleParser s)) := by
  obtain ⟨ha, hx, rfl⟩ := h
  rw [← ctrlI_eq_infoCode, ← ha] at hx
  have hout : frameOut (ctrlI n) s.parser = .candidate s.parser.pa (ctrlI n) s.parser.raw := if_pos hx
  rw [exec_infoInstr, takeInfo, if_pos hs, hout]
  exact if_pos ha

/-- R266, first failure: REJ. -/
theorem exec_infoInstr_escape {j : Nat} (hs : s.phase = .rRead)
    (h : Claims.HoldsFrame s addrT (Claims.infoCode n) raw)
    (hd : destuff s.par raw s.par.dstCap = .error (.malformedEscape j)) :
    exec (Claims.infoInstr n) s = .next (sendRej (idleParser s)) :=
  (exec_infoInstr_region hs h).trans (congrArg _ (receiveRegion_escape (s := idleParser s) hd))

/-- R267. -/
theorem exec_infoInstr_exhausted {j : Nat} (hs : s.phase = .rRead)
    (h : Claims.HoldsFrame s addrT (Claims.infoCode n) raw)
    (hd : destuff s.par raw s.par.dstCap = .error (.bufferExhausted j)) :
    exec (Claims.infoInstr n) s = .next (readCorrupt (idleParser s)) :=
  (exec_infoInstr_region hs h).trans (congrArg _ (receiveRegion_exhausted (s := idleParser s) hd))

/-- A destuffed region is in dstbuf when R268 to R271 judge it (R266). -/
theorem exec_infoInstr_destuffed (hs : s.phase = .rRead) (h : Claims.HoldsFrame s addrT (Claims.infoCode n) raw)
    (hd : destuff s.par raw s.par.dstCap = .ok d) : exec (Claims.infoInstr n) s =
      .next (actOn (judge s.nr n d) { idleParser s with dstbuf := Memory.writeAll s.dstbuf 0 d }) :=
  (exec_infoInstr_region hs h).trans (congrArg _ (receiveRegion_destuffed (s := idleParser s) hd))

end InfoFrame

/-- Settles O41: the header checksum (R262), then the region's escapes (R266), its emptiness (R268) and its checksum (R269). -/
theorem badInfoFramesDrawRej : Obligations.BadInfoFramesDrawRej := by
  intro s n raw hs
  refine ⟨fun hx => ?_, fun h => ⟨fun j hd => ?_, fun hd => ?_, fun p q hd hq => ?_⟩⟩
  · rw [exec_infoInstr_badHeader hs hx, sendRej_eq]
    rfl
  · rw [exec_infoInstr_escape hs h hd, sendRej_eq]
    rfl
  · rw [exec_infoInstr_destuffed hs h hd, judge_empty, actOn, sendRej_eq]
    rfl
  · rw [exec_infoInstr_destuffed hs h hd, judge_badChecksum s.nr hq, actOn, sendRej_eq]
    rfl

/-- Settles O42, by R267. -/
theorem oversizedFrameEndsRead : Obligations.OversizedFrameEndsRead := by
  intro s n raw j hs h hd
  rw [exec_infoInstr_exhausted hs h hd, readCorrupt_eq]
  rfl

/-- Settles O39: the verdict is `fresh`, and DST_CAP bounds the payload's length (R13), so that LEN holds it. -/
theorem newFrameIsDelivered : Obligations.NewFrameIsDelivered := by
  intro s raw p hpar hs h hd
  have hp : p.length < 65536 := by
    obtain ⟨-, hmax, -⟩ := hpar
    have hfit := destuff_length hd
    rw [List.length_append, List.length_singleton] at hfit
    omega
  rw [exec_infoInstr_destuffed hs h hd, judge_fresh, actOn, deliver_eq hp]
  rfl

/-- Settles O40: the verdict is `duplicate`. -/
theorem duplicateIsAcknowledgedAgain : Obligations.DuplicateIsAcknowledgedAgain := by
  intro s raw p hs h hd
  rw [exec_infoInstr_destuffed hs h hd, judge_duplicate (bit_flip_ne s.nr), actOn, answerDuplicate_eq]
  rfl

/-! ### The same frame twice (R272) -/

/-- The core that has read the information frame of `n` and `p`, whose stuffed region is `d`, with `q` and `es` after it,
when the region is judged (R266). -/
def atVerdict (n : Bit) (p d q : List Byte) (es : List Event) (s : State) : State :=
  { idleParser (atFrameEnd addrT (ctrlI n) d q es s) with dstbuf := Memory.writeAll s.dstbuf 0 (infoBody p) }

/-- A core in R_READ reads the frame BuildI makes of a payload, with either sequence bit: the region destuffs to the payload
and its checksum, which the verdict is about (R97, R134, R266). -/
theorem run_builtFrame {n : Bit} {p f q : List Byte} {es : List Event} (hpar : s.par.ok)
    (hp : p.length ≤ s.par.maxPayload) (hs : s.phase = .rRead) (hps : s.parser.ps = .idle) (hwf : s.parser.rawbuf.wf)
    (hf : buildI s.par n p = .ok f) (hq : s.rxQueue = f ++ q) (he : s.events = Claims.reads f.length ++ es) :
    ∃ d, Host.Core.run Sys2Proof.core f.length s =
      .next (actOn (judge s.nr n (infoBody p)) (atVerdict n p d q es s)) := by
  obtain ⟨d, hbuild, -, hfit, hdelim, hback⟩ := infoFramesHaveTheirForm s.par n p hpar hp
  rw [← ctrlI_eq_infoCode] at hbuild
  obtain rfl : infoFrame n d = f := Except.ok.inj (hbuild.symm.trans hf)
  obtain ⟨-, -, hcap, -⟩ := hpar
  obtain ⟨hctl, hinfo⟩ := ctrlI_mem n
  have holds : Claims.HoldsFrame (atFrameEnd addrT (ctrlI n) d q es s) addrT (Claims.infoCode n) d :=
    ⟨rfl, congrArg (hcs addrT) (ctrlI_eq_infoCode n), atFrameEnd_raw addrT (ctrlI n) d q es hwf⟩
  have hend := exec_infoInstr_destuffed (s := atFrameEnd addrT (ctrlI n) d q es s) hs holds hback
  rw [infoFrame_length] at he ⊢
  exact ⟨d, run_infoFrame (hs ▸ rfl) (captured_of_early (.inl hps)) (.inl hps) (by decide) (hs ▸ hctl) hinfo hdelim
    (by omega) hq he (decodeCtrl_ctrlI n) hend⟩

/-- The core that has delivered the payload of the expected frame and taken the READ after it (R260, R270). -/
def readingAgain (p d q : List Byte) (es : List Event) (s : State) : State :=
  receiverReading { deliver p (atVerdict s.nr p d q (.cmd readCommand :: es) s) with events := es }

/-- The expected frame is delivered and ends its READ, so that the next READ is accepted (R260, R270). -/
theorem run_freshFrame_read {p f q : List Byte} {es : List Event} (hpar : s.par.ok) (hp : p.length ≤ s.par.maxPayload)
    (hs : s.phase = .rRead) (hr : s.role = .receiver) (hps : s.parser.ps = .idle) (hwf : s.parser.rawbuf.wf)
    (hf : buildI s.par s.nr p = .ok f) (hq : s.rxQueue = f ++ q)
    (he : s.events = Claims.reads f.length ++ .cmd readCommand :: es) :
    ∃ d, Host.Core.run Sys2Proof.core (f.length + 1) s = .next (readingAgain p d q es s) := by
  obtain ⟨d, delivered⟩ := run_builtFrame hpar hp hs hps hwf hf hq he
  rw [infoBody, judge_fresh] at delivered
  have read := step_read (s := deliver p (atVerdict s.nr p d q (.cmd readCommand :: es) s)) rfl rfl hr
  exact ⟨d, (run_add delivered 1).trans (run_succ read 0)⟩

/-- Settles O44: the first frame is delivered and toggles nr, READ waits again, and the second frame, whose sequence bit is
now the other one, is a duplicate (R271). -/
theorem duplicateIsDeliveredOnce : Obligations.DuplicateIsDeliveredOnce := by
  intro s p f q es hpar hp hs hr hps hwf hf hq he
  have hlen : p.length < 65536 := by
    obtain ⟨-, hmax, -⟩ := hpar
    omega
  rw [List.append_assoc] at hq
  rw [List.append_assoc, List.append_assoc, List.singleton_append] at he
  obtain ⟨d, first⟩ := run_freshFrame_read hpar hp hs hr hps hwf hf hq he
  obtain ⟨d', second⟩ := run_builtFrame (s := readingAgain p d (f ++ q) (Claims.reads f.length ++ es) s) hpar hp rfl rfl
    (memory_wf_writeAll hwf 0 d) hf rfl rfl
  have hn : s.nr ≠ (readingAgain p d (f ++ q) (Claims.reads f.length ++ es) s).nr := (bit_flip_ne s.nr).symm
  rw [infoBody, judge_duplicate hn, actOn, answerDuplicate_eq] at second
  refine ⟨_, (run_add first f.length).trans second, rfl, rfl, rfl, rfl, ?_, ?_⟩
  · simp [Claims.SameOutsideReceiver, atVerdict, readingAgain, receiverReading, atFrameEnd, deliver, hlen]
  · change (deliver p _).outputs ++ _ = _
    rw [deliver_outputs hlen, List.append_assoc]
    rfl

end Sys2Proof.ArqRx
